-- ==== Sys2Proof/Word.lean ====
section
/-! DEFINITION. The word types of the block: bytes, 64-bit words (limbs), context slot numbers and limb arrays. -/

namespace Sys2Proof

/-- One byte of the operand RAM (10_state.md R33). -/
abbrev Byte := BitVec 8

/-- A word, or limb: an unsigned 64-bit value (00_scope.md R9, R10). A command word is one too (30_encoding.md R100). -/
abbrev Word := BitVec 64

/-- The number of a context slot, 0 to 3 (30_encoding.md R103). -/
abbrev Slot := Fin 4

/-- A limb array, least-significant limb first (00_scope.md R10). Its length is the L of the command at hand. -/
abbrev Limbs := List Word

end Sys2Proof
end

