-- ==== Sys2Proof/Syntax.lean ====
section
/-! DEFINITION. The commands as syntax: one constructor for each row of spec/opcode_table.json (30_encoding.md R107). -/

namespace Sys2Proof

/-- The ten commands with the operands each one uses, in the assembler's order CTX, DST, SRC1, SRC2 after LEN
(30_encoding.md R106, R111). `len` is a limb count and the offsets are byte offsets into the operand RAM: plain numbers,
which the assembler refuses when a field cannot hold them (`Instr.wellFormed`). -/
inductive Instr where
  /-- SETMOD (43_montgomery_context.md R250). -/
  | setmod (len : Nat) (ctx : Slot) (src1 : Nat)
  /-- SETMODI (R260). -/
  | setmodi (len : Nat) (ctx : Slot) (src1 : Nat)
  /-- CLRCTX (R268). -/
  | clrctx (ctx : Slot)
  /-- ADDMOD (41_modular_addsub.md R180). -/
  | addmod (len : Nat) (ctx : Slot) (dst src1 src2 : Nat)
  /-- SUBMOD (R190). -/
  | submod (len : Nat) (ctx : Slot) (dst src1 src2 : Nat)
  /-- MULMONT (42_cios_multiplier.md R230). -/
  | mulmont (len : Nat) (ctx : Slot) (dst src1 src2 : Nat)
  /-- TOMONT (43_montgomery_context.md R275). -/
  | tomont (len : Nat) (ctx : Slot) (dst src1 : Nat)
  /-- TONORM (R282). -/
  | tonorm (len : Nat) (ctx : Slot) (dst src1 : Nat)
  /-- CMPGTE (40_limb_primitives.md R150). -/
  | cmpgte (len src1 src2 : Nat)
  /-- CSEL (R160). -/
  | csel (len dst src1 src2 : Nat)
deriving DecidableEq, Repr

end Sys2Proof
end

