-- ==== Sys2Proof/WellFormed.lean ====
section
/-! DEFINITION. Which commands the assembler accepts: every operand fits its field (30_encoding.md R111). -/

namespace Sys2Proof

/-- LEN is a 4-bit field: the assembler refuses n > 15 (R102, R111). -/
def lenFits (len : Nat) : Bool := decide (len ≤ 15)

/-- DST, SRC1 and SRC2 are 12-bit fields: the assembler refuses an offset > 4095 (R104, R111). -/
def offsetFits (off : Nat) : Bool := decide (off ≤ 4095)

/-- Every operand of the command fits its field (R111). The slot number fits by its type. -/
def Instr.wellFormed : Instr → Bool
  | .setmod len _ src1 => lenFits len && offsetFits src1
  | .setmodi len _ src1 => lenFits len && offsetFits src1
  | .clrctx _ => true
  | .addmod len _ dst src1 src2 => lenFits len && offsetFits dst && offsetFits src1 && offsetFits src2
  | .submod len _ dst src1 src2 => lenFits len && offsetFits dst && offsetFits src1 && offsetFits src2
  | .mulmont len _ dst src1 src2 => lenFits len && offsetFits dst && offsetFits src1 && offsetFits src2
  | .tomont len _ dst src1 => lenFits len && offsetFits dst && offsetFits src1
  | .tonorm len _ dst src1 => lenFits len && offsetFits dst && offsetFits src1
  | .cmpgte len src1 src2 => lenFits len && offsetFits src1 && offsetFits src2
  | .csel len dst src1 src2 => lenFits len && offsetFits dst && offsetFits src1 && offsetFits src2

end Sys2Proof
end

