-- ==== Sys2Proof/Decode.lean ====
section
/-! DEFINITION. Decode of a 64-bit command word (30_encoding.md R100–R110), and the encoder written from the same tables. -/

namespace Sys2Proof

/-- The ten assigned opcodes (R107). -/
inductive Opcode where
  | setmod | setmodi | clrctx | addmod | submod | mulmont | tomont | tonorm | cmpgte | csel
deriving DecidableEq, Repr

/-- Why a word is no command. Each of them raises ILLEGAL_CMD (R105, R106, R108, R109). -/
inductive Reject where
  /-- OPC is not in the map of R107. -/
  | unassignedOpcode
  /-- RSVD0 or RSVD1 is not zero (R105). -/
  | reservedBitSet
  /-- A field that the opcode does not use is not zero (R106). -/
  | unusedFieldSet
deriving DecidableEq, Repr

/-- The opcode map, OPC column (R107). -/
def Opcode.code : Opcode → BitVec 8
  | .setmod => 0x01
  | .setmodi => 0x02
  | .clrctx => 0x03
  | .addmod => 0x10
  | .submod => 0x11
  | .mulmont => 0x12
  | .tomont => 0x13
  | .tonorm => 0x14
  | .cmpgte => 0x20
  | .csel => 0x21

/-- The mask column of R106: OPC, the reserved fields and every field the opcode does not use. -/
def Opcode.mask : Opcode → Word
  | .setmod => 0xFFFFFF000FFFC0FF
  | .setmodi => 0xFFFFFF000FFFC0FF
  | .clrctx => 0xFFFFFFFFFFFFCFFF
  | .addmod => 0xFFF000000000C0FF
  | .submod => 0xFFF000000000C0FF
  | .mulmont => 0xFFF000000000C0FF
  | .tomont => 0xFFFFFF000000C0FF
  | .tonorm => 0xFFFFFF000000C0FF
  | .cmpgte => 0xFFF000000FFFF0FF
  | .csel => 0xFFF000000000F0FF

/-- The match column of R106. -/
def Opcode.pattern : Opcode → Word
  | .setmod => 0x0000000000000001
  | .setmodi => 0x0000000000000002
  | .clrctx => 0x0000000000000003
  | .addmod => 0x0000000000000010
  | .submod => 0x0000000000000011
  | .mulmont => 0x0000000000000012
  | .tomont => 0x0000000000000013
  | .tonorm => 0x0000000000000014
  | .cmpgte => 0x0000000000000020
  | .csel => 0x0000000000000021

/-- Every opcode, in the table's order. -/
def Opcode.all : List Opcode :=
  [.setmod, .setmodi, .clrctx, .addmod, .submod, .mulmont, .tomont, .tonorm, .cmpgte, .csel]

/-- `w.OPC = w[7:0]` (R101). -/
def fieldOpc (w : Word) : BitVec 8 := w.extractLsb' 0 8

/-- `w.LEN = w[11:8]`, unsigned (R101, R102). -/
def fieldLen (w : Word) : Nat := (w.extractLsb' 8 4).toNat

/-- `w.CTX = w[13:12]` (R101, R103). -/
def fieldCtx (w : Word) : Slot := (w.extractLsb' 12 2).toFin

/-- `w.RSVD0 = w[15:14]` (R101, R105). -/
def fieldRsvd0 (w : Word) : BitVec 2 := w.extractLsb' 14 2

/-- `w.DST = w[27:16]`, zero-extended (R101, R104). -/
def fieldDst (w : Word) : Nat := (w.extractLsb' 16 12).toNat

/-- `w.SRC1 = w[39:28]`, zero-extended (R101, R104). -/
def fieldSrc1 (w : Word) : Nat := (w.extractLsb' 28 12).toNat

/-- `w.SRC2 = w[51:40]`, zero-extended (R101, R104). -/
def fieldSrc2 (w : Word) : Nat := (w.extractLsb' 40 12).toNat

/-- `w.RSVD1 = w[63:52]` (R101, R105). -/
def fieldRsvd1 (w : Word) : BitVec 12 := w.extractLsb' 52 12

/-- The row of the opcode map that an OPC value names, if it names one (R107, R109). -/
def opcodeOf (opc : BitVec 8) : Option Opcode := Opcode.all.find? (fun o => o.code == opc)

/-- The command that a word with this opcode stands for: the fields its row marks as used (R106). -/
def buildInstr (o : Opcode) (w : Word) : Instr :=
  match o with
  | .setmod => .setmod (fieldLen w) (fieldCtx w) (fieldSrc1 w)
  | .setmodi => .setmodi (fieldLen w) (fieldCtx w) (fieldSrc1 w)
  | .clrctx => .clrctx (fieldCtx w)
  | .addmod => .addmod (fieldLen w) (fieldCtx w) (fieldDst w) (fieldSrc1 w) (fieldSrc2 w)
  | .submod => .submod (fieldLen w) (fieldCtx w) (fieldDst w) (fieldSrc1 w) (fieldSrc2 w)
  | .mulmont => .mulmont (fieldLen w) (fieldCtx w) (fieldDst w) (fieldSrc1 w) (fieldSrc2 w)
  | .tomont => .tomont (fieldLen w) (fieldCtx w) (fieldDst w) (fieldSrc1 w)
  | .tonorm => .tonorm (fieldLen w) (fieldCtx w) (fieldDst w) (fieldSrc1 w)
  | .cmpgte => .cmpgte (fieldLen w) (fieldSrc1 w) (fieldSrc2 w)
  | .csel => .csel (fieldLen w) (fieldDst w) (fieldSrc1 w) (fieldSrc2 w)

/-- Decode of R108, total on every word. The reason of a rejection is the model's; every reason raises ILLEGAL_CMD. -/
def decode (w : Word) : Except Reject Instr :=
  match opcodeOf (fieldOpc w) with
  | none => .error .unassignedOpcode
  | some o =>
    if w &&& o.mask = o.pattern then .ok (buildInstr o w)
    else if fieldRsvd0 w ≠ 0 ∨ fieldRsvd1 w ≠ 0 then .error .reservedBitSet
    else .error .unusedFieldSet

/-- The row of the opcode map that a command belongs to. -/
def Instr.opcode : Instr → Opcode
  | .setmod _ _ _ => .setmod
  | .setmodi _ _ _ => .setmodi
  | .clrctx _ => .clrctx
  | .addmod _ _ _ _ _ => .addmod
  | .submod _ _ _ _ _ => .submod
  | .mulmont _ _ _ _ _ => .mulmont
  | .tomont _ _ _ _ => .tomont
  | .tonorm _ _ _ _ => .tonorm
  | .cmpgte _ _ _ => .cmpgte
  | .csel _ _ _ _ => .csel

/-- A command word from its fields, most-significant field first (R101, concatenation as in R8). -/
def packWord (o : Opcode) (len : Nat) (ctx : Slot) (dst src1 src2 : Nat) : Word :=
  (0 : BitVec 12) ++ BitVec.ofNat 12 src2 ++ BitVec.ofNat 12 src1 ++ BitVec.ofNat 12 dst ++
    (0 : BitVec 2) ++ BitVec.ofNat 2 ctx.val ++ BitVec.ofNat 4 len ++ o.code

/-- The encoder: an assembler "sets every field not named by the syntax to 0" (R111). -/
def encode (i : Instr) : Word :=
  match i with
  | .setmod len ctx src1 => packWord .setmod len ctx 0 src1 0
  | .setmodi len ctx src1 => packWord .setmodi len ctx 0 src1 0
  | .clrctx ctx => packWord .clrctx 0 ctx 0 0 0
  | .addmod len ctx dst src1 src2 => packWord .addmod len ctx dst src1 src2
  | .submod len ctx dst src1 src2 => packWord .submod len ctx dst src1 src2
  | .mulmont len ctx dst src1 src2 => packWord .mulmont len ctx dst src1 src2
  | .tomont len ctx dst src1 => packWord .tomont len ctx dst src1 0
  | .tonorm len ctx dst src1 => packWord .tonorm len ctx dst src1 0
  | .cmpgte len src1 src2 => packWord .cmpgte len 0 0 src1 src2
  | .csel len dst src1 src2 => packWord .csel len 0 dst src1 src2

/-- The command word the opcode table's bits make: the `nbits` low bits of `w`, every bit above them 0. A command word is
moved whole on the data bus, so no byte order applies to it (R72, R100). -/
def tableWord (nbits w : Nat) : Word := BitVec.ofNat 64 (w % 2 ^ nbits)

/-- The command that the decoder reads from a table word. -/
def decodeTableWord (nbits w : Nat) : Option Instr := (decode (tableWord nbits w)).toOption

end Sys2Proof
end

