-- ==== Sys2Proof/Config.lean ====
section
/-! DEFINITION. The parameters of 00_scope.md R7: the fixed ones as numbers, the open ones as constants without a body. -/

namespace Sys2Proof.Config

/-- `LIMB_BITS` (R7). -/
abbrev limbBits : Nat := 64

/-- `MIN_L` (R7). -/
abbrev minL : Nat := 1

/-- `MAX_L` (R7). -/
abbrev maxL : Nat := 12

/-- `NCTX`, the number of context slots (R7, R47). The type `Slot` has as many values. -/
abbrev nctx : Nat := 4

/-- `OPRAM_BYTES`, the size of the operand RAM (R7, R33). -/
abbrev opramBytes : Nat := 4096

/-- The command-set version that PARAMS reports (R2, R42). -/
abbrev version : Nat := 1

/-- `RESET_RAM` (R7, R341; 93_implementation_defined.md I1): the value of an operand-RAM byte that nothing has written
since the last reset. A FREE VALUE (log 1): the first argument names the draw in force (`State.ramDraw`), the second is the
byte's offset. Nothing in Lean can tell what it is, so whatever is proved holds for every content of the RAM. -/
opaque resetRam : Nat → Nat → Byte

/-- Which draw of `resetRam` a reset brings into force, from the draw before it and the bytes written under that one. A FREE
VALUE too (log 4): so the RAM after a reset may still depend on what it held, since "reset does not clear it" (R341). -/
opaque nextDraw : Nat → List (Nat × Byte) → Nat

/-- The part of `CYCLES(opc, L, operands)` above one cycle (R361, I6). Open; nothing in the model depends on it (log 8). -/
opaque extraCycles : BitVec 8 → Nat → List Nat → Nat

/-- `CYCLES(opc, L, operands)`: finite and positive, otherwise open (R361). The machine has no time and never reads it. -/
def cycles (opc : BitVec 8) (len : Nat) (operands : List Nat) : Nat :=
  extraCycles opc len operands + 1

/-- `CONSTANT_TIME` (R362, I7): open, with no functional effect (log 8). -/
opaque constantTime : Bool

end Sys2Proof.Config
end

