-- ==== Sys2Proof/Machine/State.lean ====
section
/-! DEFINITION. The state of the block (10_state.md R31), the host's requests and responses (20_memory.md R95), the reasons a
step could stop for, and the state after reset (R55). -/

namespace Sys2Proof.Machine

/-- The completion codes of STATUS.ERR (60_exceptions.md R300). -/
inductive ErrCode where
  /-- 0: success. -/
  | ok
  /-- 1: the word is no command. -/
  | illegalCmd
  /-- 2: the slot holds no context. -/
  | noContext
  /-- 3: LEN is not the context's L, or not 1..12 for CMPGTE and CSEL. -/
  | lengthMismatch
  /-- 4: a byte range ends beyond offset 4095. -/
  | badAddress
  /-- 5: the modulus, its limb count or the host's `mod_inv` is not valid. -/
  | invalidModulus
  /-- 6: a source operand of ADDMOD, SUBMOD or MULMONT is not below N. -/
  | operandOutOfRange
  /-- 7: the CIOS final correction left a word above the low L limbs; never produced (R309). -/
  | internalInvariant
deriving DecidableEq, Repr

/-- The kind of a host transaction (R95). -/
inductive AccessKind where
  | read
  | write
deriving DecidableEq, Repr

/-- The size of a host transaction: 1, 2, 4 or 8 bytes (R77, R95). -/
inductive AccessSize where
  | one
  | two
  | four
  | eight
deriving DecidableEq, Repr

/-- A request on the host port (R95). -/
structure Request where
  kind : AccessKind
  addr : BitVec 16
  size : AccessSize
  wdata : Word
deriving DecidableEq, Repr

/-- The response code of a bus transaction (R95). -/
inductive Resp where
  | okay
  | error
deriving DecidableEq, Repr

/-- A response on the host port (R95). -/
structure Response where
  resp : Resp
  rdata : Word
deriving DecidableEq, Repr

/-- What the outside world can do to the block: issue a request (R95), or pulse the reset input (R340; log 5). -/
inductive HostEvent where
  | request (r : Request)
  | reset
deriving DecidableEq, Repr

/-- One context slot (R47). The numbers of limbs are those of the slot, not of the modulus: limbs L..11 are 0. -/
structure Context where
  /-- VALID. -/
  valid : Bool
  /-- L: the limb count of the modulus. -/
  len : BitVec 4
  /-- MOD[0..11]: the modulus. -/
  mod : Vector Word 12
  /-- MODINV: the reduction constant. -/
  modInv : Word
  /-- R2[0..11]: R² mod N. -/
  r2 : Vector Word 12
deriving DecidableEq, Repr

/-- A slot that holds no context: VALID = 0 and every other field 0 (R49). -/
def Context.empty : Context :=
  { valid := false, len := 0, mod := Vector.replicate 12 0, modInv := 0, r2 := Vector.replicate 12 0 }

/-- The operand RAM as plain data: the bytes written since the last reset, as (offset, byte) pairs in rising order. A byte
that is not listed has not been written since then (R341). -/
abbrev Memory := List Host.Cell

/-- Everything the block holds. The first six fields are the spec's architectural state (R31); the last three are the
model's own (logs 2, 3 and 4). -/
structure State where
  /-- RAM[0..4095] (R33). -/
  ram : Memory
  /-- CTX[0..3] (R47). -/
  ctx : Vector Context 4
  /-- STATUS.ERR (R37). -/
  err : BitVec 4
  /-- STATUS.GTE (R36). -/
  gte : Bool
  /-- STATUS.STICKY (R38). -/
  sticky : Bool
  /-- LASTCMD (R40). -/
  lastCmd : Word
  /-- The host's events still to come, oldest first (log 2). -/
  pending : List HostEvent
  /-- The bus responses given so far, oldest first (R363; log 3). -/
  responses : List Response
  /-- Which draw of the free value `Config.resetRam` the unwritten RAM bytes hold; a reset changes it (log 4). -/
  ramDraw : Nat
deriving DecidableEq, Repr

/-- The state right after reset (R55, R341): every register and slot 0, and no RAM byte written. The RAM's contents are the
free value `Config.resetRam` (log 1). The model's own fields start empty (logs 2, 3 and 4). -/
def State.reset : State :=
  { ram := []
    ctx := Vector.replicate 4 Context.empty
    err := 0
    gte := false
    sticky := false
    lastCmd := 0
    pending := []
    responses := []
    ramDraw := 0 }

/-- The reasons a step could stop with a fault. There are none: the block has no traps (R306), a bus error is a response
(R304), a command error is a code in STATUS (R302), and the block never halts or stops on its own (R363; log 15). -/
inductive Fault where
deriving DecidableEq, Repr

/-- The reasons a step could refuse an instruction. -/
inductive Refusal where
  /-- Raised by an arm of `exec` whose instruction has no meaning yet; no arm is left that does so. Safe: the run stops. -/
  | notModelled (mnemonic : String)
deriving DecidableEq, Repr

/-- What one step of the block answers. -/
abbrev StepResult := Host.Outcome State Fault Refusal

end Sys2Proof.Machine
end

