-- ==== Sys2Proof/Machine/Ops.lean ====
section
/-! DEFINITION. The named operations over the operand RAM, the context slots, the status fields and the bus responses, and
the one operation by which every command ends: success (30_encoding.md R117) or an error (60_exceptions.md R302). -/

namespace Sys2Proof.Machine

/-! ### The operand RAM -/

/-- What an offset that the memory does not list reads as: no value, because nothing has written it since reset (R341). -/
def Memory.unlisted (_off : Nat) : Option Byte := none

/-- The byte that was last written to an offset, if one was. -/
def Memory.load? : Memory → Nat → Option Byte
  | [], off => Memory.unlisted off
  | (a, b) :: rest, off => if a = off then some b else Memory.load? rest off

/-- The memory after a byte is written to an offset; it keeps the rising order of the offsets. -/
def Memory.store : Memory → Nat → Byte → Memory
  | [], off, b => [(off, b)]
  | (a, c) :: rest, off, b =>
    if off < a then (off, b) :: (a, c) :: rest
    else if off = a then (off, b) :: rest
    else (a, c) :: Memory.store rest off b

/-- Every listed offset lies above `low`, and they rise strictly. -/
def Memory.risesAbove : Nat → Memory → Bool
  | _, [] => true
  | low, (a, _) :: rest => decide (low < a) && Memory.risesAbove a rest

/-- The listed offsets rise strictly. -/
def Memory.rises : Memory → Bool
  | [] => true
  | (a, _) :: rest => Memory.risesAbove a rest

/-- Every listed offset lies inside the operand RAM (R33). -/
def Memory.inside (m : Memory) : Bool := m.all (fun cell => decide (cell.1 < Config.opramBytes))

/-- The canonical form: offsets strictly rising, each inside the operand RAM. No entry can equal what an unlisted offset
reads as, since that is no value. -/
def Memory.wf (m : Memory) : Bool := Memory.rises m && Memory.inside m

/-- RAM[off]. A byte that nothing has written since reset is the free value `Config.resetRam` (R341, I1–I3; log 1). -/
def State.byteAt (s : State) (off : Nat) : Byte :=
  (Memory.load? s.ram off).getD (Config.resetRam s.ramDraw off)

/-- RAM[off] ← b. -/
def State.setByte (s : State) (off : Nat) (b : Byte) : State :=
  { s with ram := Memory.store s.ram off b }

/-- `MemRead(off, n)`: the little-endian integer held by the n bytes at off … off+n−1 (00_scope.md R14, 20_memory.md R70). -/
def State.memRead (s : State) (off : Nat) : Nat → Nat
  | 0 => 0
  | n + 1 => (s.byteAt off).toNat + 256 * s.memRead (off + 1) n

/-- `MemWrite(off, n, v)`: byte b of v, v[8b+7:8b], goes to RAM[off+b] for 0 ≤ b < n (00_scope.md R14). -/
def State.memWrite (s : State) (off : Nat) : Nat → Nat → State
  | 0, _ => s
  | n + 1, v => (s.setByte off (BitVec.ofNat 8 v)).memWrite (off + 1) n (v / 256)

/-! ### The context slots -/

/-- CTX[k] (R47). -/
def State.slot (s : State) (k : Slot) : Context := s.ctx[k]

/-- CTX[k] ← c, all fields together (R51, R251). -/
def State.setSlot (s : State) (k : Slot) (c : Context) : State :=
  { s with ctx := s.ctx.set k c }

/-- `ClearSlot(k)`: VALID ← 0 and every other field ← 0 (43_montgomery_context.md R256). -/
def State.clearSlot (s : State) (k : Slot) : State := s.setSlot k Context.empty

/-! ### How a command ends -/

/-- The 4-bit value of a completion code (R300). -/
def ErrCode.code : ErrCode → BitVec 4
  | .ok => 0
  | .illegalCmd => 1
  | .noContext => 2
  | .lengthMismatch => 3
  | .badAddress => 4
  | .invalidModulus => 5
  | .operandOutOfRange => 6
  | .internalInvariant => 7

/-- A command succeeds: STATUS.ERR ← 0; STICKY and GTE stay (R117, R37, R38). -/
def State.succeed (s : State) : State := { s with err := ErrCode.ok.code }

/-- TAKING AN ERROR, the one way in which any command fails (R302): STATUS.ERR ← code and STATUS.STICKY ← 1. No RAM byte,
no flag and no slot is written. There is no trap, no saved state, no handler and so no return from one (R306, R307). -/
def State.raise (s : State) (c : ErrCode) : State := { s with err := c.code, sticky := true }

/-- A check inside a command's body: go on when it holds, raise the error when it does not (R303). -/
def require {α : Type} (holds : Bool) (c : ErrCode) (rest : Except ErrCode α) : Except ErrCode α :=
  if holds then rest else .error c

/-- The end of Execute (R117). `body` is what the command's body makes of the state, and `failed` the state an error is
taken in: the state before the command, or for SETMOD and SETMODI that state with the slot cleared (R302 point 5). -/
def finish (failed : State) (body : Except ErrCode State) : StepResult :=
  .next (match body with
    | .ok s => s.succeed
    | .error c => failed.raise c)

/-! ### The bus -/

/-- The transaction gets its response (R95, R363). -/
def State.respond (s : State) (resp : Resp) (rdata : Word) : State :=
  { s with responses := s.responses ++ [{ resp := resp, rdata := rdata }] }

/-- The reset input is pulsed (R340, R55): every register and slot takes its reset value, and the RAM is UNSPECIFIED again,
so its bytes are a new draw (R341; logs 4 and 5). The events still to come and the responses already given are the host's. -/
def State.applyReset (s : State) : State :=
  { State.reset with
    pending := s.pending
    responses := s.responses
    ramDraw := Config.nextDraw s.ramDraw s.ram }

end Sys2Proof.Machine
end

