-- ==== Sys2Proof/Machine/Flags.lean ====
section
/-! DEFINITION. The flags and the registers made of them: GTE, STICKY and its clear, STATUS, PARAMS and CTXCFG. -/

namespace Sys2Proof.Machine

/-- STATUS.GTE ← g. Only CMPGTE does this (10_state.md R36). -/
def State.setGte (s : State) (g : Bool) : State := { s with gte := g }

/-- A host write to STATUS: a 1 in bit 8 clears STICKY, a 0 leaves it; every other bit is ignored (R38, R41). -/
def State.writeStatus (s : State) (wdata : Word) : State :=
  { s with sticky := s.sticky && !wdata.getLsbD 8 }

/-- A flag as the bit of a register. -/
def flagBit (b : Bool) : BitVec 1 := BitVec.ofBool b

/-- CTXV, STATUS[19:16]: bit k is CTX[k].VALID (R41). -/
def State.ctxv (s : State) : BitVec 4 :=
  flagBit (s.slot 3).valid ++ flagBit (s.slot 2).valid ++ flagBit (s.slot 1).valid ++ flagBit (s.slot 0).valid

/-- STATUS as a host read returns it: [63:20] 0, CTXV, [15:9] 0, STICKY, [7:5] 0, GTE, ERR (R41). -/
def State.statusWord (s : State) : Word :=
  (0 : BitVec 44) ++ s.ctxv ++ (0 : BitVec 7) ++ flagBit s.sticky ++ (0 : BitVec 3) ++ flagBit s.gte ++ s.err

/-- PARAMS: [63:40] 0, VERSION, OPRAM_BYTES, NCTX, MAX_L (R42). -/
def paramsWord : Word :=
  (0 : BitVec 24) ++ BitVec.ofNat 8 Config.version ++ BitVec.ofNat 16 Config.opramBytes ++
    BitVec.ofNat 8 Config.nctx ++ BitVec.ofNat 8 Config.maxL

/-- CTXCFG[k]: bit 0 is VALID, bits [11:8] are L, every other bit is 0 (R43). -/
def Context.cfgWord (c : Context) : Word :=
  (0 : BitVec 52) ++ c.len ++ (0 : BitVec 7) ++ flagBit c.valid

end Sys2Proof.Machine
end

