-- ==== Sys2Proof/Machine/Limbs.lean ====
section
/-! DEFINITION. The datapath units of 40_limb_primitives.md part 1, and the conversions between integers and limb arrays. Every
unit gets operands of one length (R148); the shorter length decides on others, which no command gives (log 12). -/

namespace Sys2Proof.Machine

/-- `Val(a)`: the integer a limb array stands for, least-significant limb first (00_scope.md R10, R13). -/
def valOf : Limbs → Nat
  | [] => 0
  | x :: xs => x.toNat + 2 ^ 64 * valOf xs

/-- `Limbs(v, L)`: limb i is v[64i+63:64i] (R13). -/
def limbsOf (v : Nat) : Nat → Limbs
  | 0 => []
  | len + 1 => BitVec.ofNat 64 v :: limbsOf (v / 2 ^ 64) len

/-- `adc(x, y, cin) -> (cout, sum)` (R140). -/
def adc (x y : Word) (cin : Bool) : Bool × Word :=
  let s := x.toNat + y.toNat + cin.toNat
  (decide (2 ^ 64 ≤ s), BitVec.ofNat 64 s)

/-- `sbb(x, y, bin) -> (bout, diff)` (R141). -/
def sbb (x y : Word) (bin : Bool) : Bool × Word :=
  if x.toNat < y.toNat + bin.toNat then
    (true, BitVec.ofNat 64 (x.toNat + 2 ^ 64 - (y.toNat + bin.toNat)))
  else
    (false, BitVec.ofNat 64 (x.toNat - (y.toNat + bin.toNat)))

/-- `mac(t, a, b, c) -> (hi, lo)`: t + a·b + c in a 128-bit intermediate, split into words (R142). -/
def mac (t a b c : Word) : Word × Word :=
  let v := t.toNat + a.toNat * b.toNat + c.toNat
  (BitVec.ofNat 64 (v / 2 ^ 64), BitVec.ofNat 64 v)

/-- The carry chain of `AddL`, from a carry-in (R143). -/
def addChain : Limbs → Limbs → Bool → Bool × Limbs
  | x :: xs, y :: ys, c =>
    let d := adc x y c
    let rest := addChain xs ys d.1
    (rest.1, d.2 :: rest.2)
  | [], _, c => (c, [])
  | _ :: _, [], c => (c, [])

/-- `AddL(a, b) -> (c, s)` (R143). -/
def addL (a b : Limbs) : Bool × Limbs := addChain a b false

/-- The borrow chain of `SubL`, from a borrow-in (R144). -/
def subChain : Limbs → Limbs → Bool → Bool × Limbs
  | x :: xs, y :: ys, b =>
    let d := sbb x y b
    let rest := subChain xs ys d.1
    (rest.1, d.2 :: rest.2)
  | [], _, b => (b, [])
  | _ :: _, [], b => (b, [])

/-- `SubL(a, b) -> (bo, d)` (R144). -/
def subL (a b : Limbs) : Bool × Limbs := subChain a b false

/-- The lexicographic comparison of `GteL` on limbs given most significant first (R145). -/
def gteFromTop : Limbs → Limbs → Bool
  | x :: xs, y :: ys => if x ≠ y then decide (y.toNat < x.toNat) else gteFromTop xs ys
  | [], _ => true
  | _ :: _, [] => true

/-- `GteL(a, b)`: from the most-significant limb down; ties give 1 (R145). -/
def gteL (a b : Limbs) : Bool := gteFromTop a.reverse b.reverse

/-- `Sel(c, a, b)`: a when c = 1, b when c = 0 (R146). -/
def sel (c : Bool) (a b : Limbs) : Limbs := if c then a else b

end Sys2Proof.Machine
end

