-- ==== Sys2Proof/Machine/Operands.lean ====
section
/-! DEFINITION. The operand forms of the commands: buffers in the operand RAM, context fields, and the checks on them. -/

namespace Sys2Proof.Machine

/-- `LoadOperand(off, L) = Limbs(MemRead(off, 8L), L)` (40_limb_primitives.md R147). -/
def State.loadOperand (s : State) (off len : Nat) : Limbs := limbsOf (s.memRead off (8 * len)) len

/-- `StoreOperand(off, L, a) = MemWrite(off, 8L, Val(a))` (R147). -/
def State.storeOperand (s : State) (off len : Nat) (a : Limbs) : State := s.memWrite off (8 * len) (valOf a)

/-- `MOD[0..L−1]` of a slot (R47). -/
def Context.modLimbs (c : Context) (len : Nat) : Limbs := c.mod.toList.take len

/-- `R2[0..L−1]` of a slot (R47). -/
def Context.r2Limbs (c : Context) (len : Nat) : Limbs := c.r2.toList.take len

/-- N, the modulus of a slot as an integer (00_scope.md R11). -/
def Context.modulus (c : Context) : Nat := valOf (c.modLimbs c.len.toNat)

/-- A limb array as the twelve words of a slot's field, "then 0 for limbs L..11" (R251). -/
def padLimbs (a : Limbs) : Vector Word 12 := ⟨⟨(List.range 12).map (fun j => a.getD j 0)⟩, by simp⟩

/-- Bounds of a byte range: off + n ≤ 4096, never wrapping (20_memory.md R88). -/
def inBounds (off n : Nat) : Bool := decide (off + n ≤ Config.opramBytes)

/-- A limb count the block supports: 1 ≤ L ≤ 12 (30_encoding.md R118). -/
def limbCountOk (len : Nat) : Bool := decide (Config.minL ≤ len) && decide (len ≤ Config.maxL)

/-- `CheckLimbCount(L, code)` (R118). -/
def checkLimbCount {α : Type} (len : Nat) (c : ErrCode) (rest : Except ErrCode α) : Except ErrCode α :=
  require (limbCountOk len) c rest

/-- `CheckCtx(k, L)`: NO_CONTEXT, then LENGTH_MISMATCH (R119). -/
def checkCtx {α : Type} (s : State) (k : Slot) (len : Nat) (rest : Except ErrCode α) : Except ErrCode α :=
  require (s.slot k).valid .noContext <|
  require (decide (len = (s.slot k).len.toNat)) .lengthMismatch rest

/-- `CheckRange(off, n)` (R120). -/
def checkRange {α : Type} (off n : Nat) (rest : Except ErrCode α) : Except ErrCode α :=
  require (inBounds off n) .badAddress rest

/-- The value check of ADDMOD, SUBMOD and MULMONT: both operands below N, else OPERAND_OUT_OF_RANGE (R181, R191, R231). -/
def checkBelow {α : Type} (x y n : Limbs) (rest : Except ErrCode α) : Except ErrCode α :=
  require (!(gteL x n || gteL y n)) .operandOutOfRange rest

/-- The body that ADDMOD, SUBMOD and MULMONT share (R181, R191, R231): the checks in the order of R303, both sources read in
full, the value check, then `core` on (x, y, n, MODINV) and one store to DST (R87). -/
def binaryBody (core : Limbs → Limbs → Limbs → Word → Except ErrCode Limbs)
    (len : Nat) (k : Slot) (dst src1 src2 : Nat) (s : State) : Except ErrCode State :=
  checkCtx s k len <|
  checkRange src1 (8 * len) <|
  checkRange src2 (8 * len) <|
  checkRange dst (8 * len) <|
  let n := (s.slot k).modLimbs len
  let x := s.loadOperand src1 len
  let y := s.loadOperand src2 len
  checkBelow x y n <|
  match core x y n (s.slot k).modInv with
  | .ok z => .ok (s.storeOperand dst len z)
  | .error c => .error c

/-- The body that TOMONT and TONORM share (R276, R283): no value check (90_conflicts.md C1); `core` on (x, the slot). -/
def unaryBody (core : Limbs → Context → Except ErrCode Limbs)
    (len : Nat) (k : Slot) (dst src1 : Nat) (s : State) : Except ErrCode State :=
  checkCtx s k len <|
  checkRange src1 (8 * len) <|
  checkRange dst (8 * len) <|
  match core (s.loadOperand src1 len) (s.slot k) with
  | .ok t => .ok (s.storeOperand dst len t)
  | .error c => .error c

end Sys2Proof.Machine
end

