-- ==== Sys2Proof/Machine/Bus.lean ====
section
/-! DEFINITION. The host port: the address map, the checks on a request, and every access but a write to CMD (20_memory.md). -/

namespace Sys2Proof.Machine

/-- What a host address names (R82). -/
inductive Target where
  /-- Operand RAM, at this offset. -/
  | ram (off : Nat)
  | cmd
  | status
  | params
  | ctxCfg (k : Slot)
  | ctxModInv (k : Slot)
  | ctxMod (k : Slot) (j : Fin 12)
  | ctxR2 (k : Slot) (j : Fin 12)
  /-- Nothing: a reserved address (R83). -/
  | reserved
deriving DecidableEq, Repr

/-- The context window of slot k: what byte `off` of its 256 bytes belongs to (R43–R46, R82). -/
def windowTarget (k : Slot) (off : Nat) : Target :=
  if off < 0x08 then .ctxCfg k
  else if off < 0x10 then .ctxModInv k
  else if off < 0x70 then .ctxMod k (Fin.ofNat 12 ((off - 0x10) / 8))
  else if off < 0xD0 then .ctxR2 k (Fin.ofNat 12 ((off - 0x70) / 8))
  else .reserved

/-- The address map (R82). A register is 8 bytes long, so the seven addresses after its own belong to it (log 13). -/
def targetOf (addr : BitVec 16) : Target :=
  let a := addr.toNat
  if a < 0x1000 then .ram a
  else if a < 0x1008 then .cmd
  else if a < 0x1010 then .status
  else if a < 0x1018 then .params
  else if a < 0x1100 then .reserved
  else if a < 0x1500 then windowTarget (Fin.ofNat 4 ((a - 0x1100) / 0x100)) ((a - 0x1100) % 0x100)
  else .reserved

/-- The size of an access in bytes (R77). -/
def AccessSize.bytes : AccessSize → Nat
  | .one => 1
  | .two => 2
  | .four => 4
  | .eight => 8

/-- A register, as opposed to the RAM: it takes size 8 only (R76). -/
def Target.sizeOk (t : Target) (size : AccessSize) : Bool :=
  match t with
  | .ram _ => true
  | .cmd => decide (size = .eight)
  | .status => decide (size = .eight)
  | .params => decide (size = .eight)
  | .ctxCfg _ => decide (size = .eight)
  | .ctxModInv _ => decide (size = .eight)
  | .ctxMod _ _ => decide (size = .eight)
  | .ctxR2 _ _ => decide (size = .eight)
  | .reserved => false

/-- The checks of R95 points 1 to 3, in order: aligned, not reserved, and a register only by 8 bytes. -/
def Request.accepted (r : Request) : Bool :=
  if r.addr.toNat % r.size.bytes ≠ 0 then false
  else if targetOf r.addr = .reserved then false
  else (targetOf r.addr).sizeOk r.size

/-- What a host read returns; it never changes anything (R71, R80, R40–R46). -/
def State.readTarget (s : State) (size : AccessSize) : Target → Word
  | .ram off => BitVec.ofNat 64 (s.memRead off size.bytes)
  | .cmd => s.lastCmd
  | .status => s.statusWord
  | .params => paramsWord
  | .ctxCfg k => (s.slot k).cfgWord
  | .ctxModInv k => (s.slot k).modInv
  | .ctxMod k j => (s.slot k).mod[j]
  | .ctxR2 k j => (s.slot k).r2[j]
  | .reserved => 0

/-- What a host write does, but for a write to CMD, which runs a command (`execute`): the RAM takes the low bytes (R71),
STATUS its bit 8 (R38), and a read-only register ignores it (R84). -/
def State.writeTarget (s : State) (size : AccessSize) (wdata : Word) : Target → State
  | .ram off => s.memWrite off size.bytes wdata.toNat
  | .cmd => s
  | .status => s.writeStatus wdata
  | .params => s
  | .ctxCfg _ => s
  | .ctxModInv _ => s
  | .ctxMod _ _ => s
  | .ctxR2 _ _ => s
  | .reserved => s

end Sys2Proof.Machine
end

