-- ==== Sys2Proof/Machine/AddSub.lean ====
section
/-! DEFINITION. ADDMOD and SUBMOD (41_modular_addsub.md). -/

namespace Sys2Proof.Machine

/-- `AddModCore(x, y, n)`: the difference is right when the addition carried or the subtraction did not borrow (R181). -/
def addModCore (x y n : Limbs) : Limbs :=
  let sum := addL x y
  let diff := subL sum.2 n
  sel (sum.1 || !diff.1) diff.2 sum.2

/-- `SubModCore(x, y, n)`: the raw difference when it did not borrow, else the modulus added, its carry dropped (R191). -/
def subModCore (x y n : Limbs) : Limbs :=
  let diff := subL x y
  let wrapped := addL diff.2 n
  sel (!diff.1) diff.2 wrapped.2

/-- ADDMOD (R180–R183). -/
def execAddmod (len : Nat) (ctx : Slot) (dst src1 src2 : Nat) (s : State) : StepResult :=
  finish s (binaryBody (fun x y n _ => .ok (addModCore x y n)) len ctx dst src1 src2 s)

/-- SUBMOD (R190–R193). -/
def execSubmod (len : Nat) (ctx : Slot) (dst src1 src2 : Nat) (s : State) : StepResult :=
  finish s (binaryBody (fun x y n _ => .ok (subModCore x y n)) len ctx dst src1 src2 s)

end Sys2Proof.Machine
end

