-- ==== Sys2Proof/Machine/Contexts.lean ====
section
/-! DEFINITION. SETMOD, SETMODI and CLRCTX (43_montgomery_context.md parts 1 to 3). -/

namespace Sys2Proof.Machine

/-- One 2-adic Newton step: it doubles the number of right low bits of an inverse of n0 (R257). -/
def newtonStep (n0 inv : Word) : Word := inv * (2 - n0 * inv)

/-- `ModInv(n0)`, the v with (n0·v + 1) mod 2^64 = 0 (R252), by the reference algorithm of R257; the value is unique for an
odd n0, so the method is free (log 10). -/
def modInv (n0 : Word) : Word :=
  - newtonStep n0 (newtonStep n0 (newtonStep n0 (newtonStep n0 (newtonStep n0 n0))))

/-- `R2Of(N, L)` = 2^(128·L) mod N (R253; log 10). -/
def r2Of (n len : Nat) : Nat := 2 ^ (128 * len) % n

/-- The value check on a modulus of L limbs: odd, and its top limb not zero (R251, R255; 90_conflicts.md C5). -/
def modulusOk (n : Limbs) : Bool :=
  decide ((n.headD 0).toNat % 2 = 1) && decide (n.getLastD 0 ≠ 0)

/-- The five context writes of SETMOD and SETMODI, made together (R251, R261). -/
def newContext (n : Limbs) (ninv : Word) (len : Nat) : Context :=
  { valid := true
    len := BitVec.ofNat 4 len
    mod := padLimbs n
    modInv := ninv
    r2 := padLimbs (limbsOf (r2Of (valOf n) len) len) }

/-- The body of SETMOD (R251). -/
def setmodBody (len : Nat) (k : Slot) (src1 : Nat) (s : State) : Except ErrCode State :=
  checkLimbCount len .invalidModulus <|
  checkRange src1 (8 * len) <|
  let n := s.loadOperand src1 len
  require (modulusOk n) .invalidModulus <|
  .ok (s.setSlot k (newContext n (modInv (n.headD 0)) len))

/-- The body of SETMODI: the host's constant stands in the 8 bytes after the modulus, and only the right one is accepted
(R261, R262). -/
def setmodiBody (len : Nat) (k : Slot) (src1 : Nat) (s : State) : Except ErrCode State :=
  checkLimbCount len .invalidModulus <|
  checkRange src1 (8 * len + 8) <|
  let n := s.loadOperand src1 len
  let hinv : Word := BitVec.ofNat 64 (s.memRead (src1 + 8 * len) 8)
  require (modulusOk n) .invalidModulus <|
  require (decide (hinv = modInv (n.headD 0))) .invalidModulus <|
  .ok (s.setSlot k (newContext n hinv len))

/-- SETMOD: any error after decode clears the slot first (R250–R256). -/
def execSetmod (len : Nat) (ctx : Slot) (src1 : Nat) (s : State) : StepResult :=
  finish (s.clearSlot ctx) (setmodBody len ctx src1 s)

/-- SETMODI: any error after decode clears the slot first (R260–R266). -/
def execSetmodi (len : Nat) (ctx : Slot) (src1 : Nat) (s : State) : StepResult :=
  finish (s.clearSlot ctx) (setmodiBody len ctx src1 s)

/-- CLRCTX: it always succeeds once decoded (R268–R271). -/
def execClrctx (ctx : Slot) (s : State) : StepResult :=
  finish s (.ok (s.clearSlot ctx))

end Sys2Proof.Machine
end

