-- ==== Sys2Proof/Machine/Cios.lean ====
section
/-! DEFINITION. The CIOS unit that MULMONT, TOMONT and TONORM share (42_cios_multiplier.md part 1). The accumulator is hidden
and transient (R211): it exists inside one call only. -/

namespace Sys2Proof.Machine

/-- The accumulator T[0..L+1] (R211): the L low words, T[L] and T[L+1]. -/
structure Acc where
  lo : Limbs
  tL : Word
  tL1 : Word
deriving DecidableEq, Repr

/-- Val(T) (R211). -/
def Acc.val (t : Acc) : Nat :=
  valOf t.lo + 2 ^ (64 * t.lo.length) * (t.tL.toNat + 2 ^ 64 * t.tL1.toNat)

/-- One inner loop of steps 1 and 3: `(C, T[j]) <- mac(T[j], a[j], b, C)` for j = 0..L−1, from a carry C (R212). -/
def macChain : Limbs → Limbs → Word → Word → Word × Limbs
  | t :: ts, a :: as, b, c =>
    let d := mac t a b c
    let rest := macChain ts as b d.1
    (rest.1, d.2 :: rest.2)
  | [], _, _, c => (c, [])
  | _ :: _, [], _, c => (c, [])

/-- `(C, x) <- x + c`: a word sum below 2^65, split into its carry and its low word (R212, R222). -/
def splitSum (x c : Word) : Word × Word :=
  let v := x.toNat + c.toNat
  (BitVec.ofNat 64 (v / 2 ^ 64), BitVec.ofNat 64 v)

/-- Step 1: T ← T + x·y[i]; T[L+1] takes the carry (R213). -/
def ciosStep1 (t : Acc) (x : Limbs) (yi : Word) : Acc :=
  let row := macChain t.lo x yi 0
  let sum := splitSum t.tL row.1
  { lo := row.2, tL := sum.2, tL1 := sum.1 }

/-- Step 2: m = (ninv · T[0]) mod 2^64 (R214). -/
def ciosStep2 (t : Acc) (ninv : Word) : Word := ninv * t.lo.headD 0

/-- Step 3: T ← T + m·n; the carry is added to T[L+1] (R215). No word overflows (R217; log 11). -/
def ciosStep3 (t : Acc) (n : Limbs) (m : Word) : Acc :=
  let row := macChain t.lo n m 0
  let sum := splitSum t.tL row.1
  { lo := row.2, tL := sum.2, tL1 := t.tL1 + sum.1 }

/-- Step 4: T[j] ← T[j+1] for j = 0..L, and T[L+1] ← 0 (R216). -/
def ciosStep4 (t : Acc) : Acc :=
  { lo := t.lo.tail ++ [t.tL], tL := t.tL1, tL1 := 0 }

/-- One outer iteration, for the limb y[i] (R212). -/
def ciosRound (x n : Limbs) (ninv : Word) (t : Acc) (yi : Word) : Acc :=
  let t1 := ciosStep1 t x yi
  ciosStep4 (ciosStep3 t1 n (ciosStep2 t1 ninv))

/-- The L outer iterations, y[0] first, from T = 0 (R212). -/
def ciosLoop (x y n : Limbs) (ninv : Word) : Acc :=
  y.foldl (ciosRound x n ninv) { lo := List.replicate x.length 0, tL := 0, tL1 := 0 }

/-- `FinalCorrection(T, n)`: branch A, B or C, tested in that order; INTERNAL_INVARIANT where branch A leaves a non-zero word
above the low L limbs (R218, R219). -/
def finalCorrection (t : Acc) (n : Limbs) : Except ErrCode Limbs :=
  if t.tL ≠ 0 then
    let d := subL t.lo n
    if t.tL.toNat - d.1.toNat ≠ 0 ∨ t.tL1 ≠ 0 then .error .internalInvariant else .ok d.2
  else if gteL t.lo n then .ok (subL t.lo n).2
  else .ok t.lo

/-- `Cios(x, y, n, ninv)` (R210, R212). -/
def cios (x y n : Limbs) (ninv : Word) : Except ErrCode Limbs :=
  finalCorrection (ciosLoop x y n ninv) n

end Sys2Proof.Machine
end

