-- ==== Sys2Proof/Machine/Convert.lean ====
section
/-! DEFINITION. TOMONT and TONORM (43_montgomery_context.md parts 4 and 5). -/

namespace Sys2Proof.Machine

/-- The bignum 1 of L limbs (R283). -/
def oneLimbs (len : Nat) : Limbs := limbsOf 1 len

/-- TOMONT: the CIOS unit on x and R2 (R275–R278). -/
def execTomont (len : Nat) (ctx : Slot) (dst src1 : Nat) (s : State) : StepResult :=
  finish s (unaryBody (fun x c => cios x (c.r2Limbs len) (c.modLimbs len) c.modInv) len ctx dst src1 s)

/-- TONORM: the CIOS unit on x and 1 (R282–R285). -/
def execTonorm (len : Nat) (ctx : Slot) (dst src1 : Nat) (s : State) : StepResult :=
  finish s (unaryBody (fun x c => cios x (oneLimbs len) (c.modLimbs len) c.modInv) len ctx dst src1 s)

end Sys2Proof.Machine
end

