-- ==== Sys2Proof/Machine/Multiply.lean ====
section
/-! DEFINITION. MULMONT (42_cios_multiplier.md part 2). -/

namespace Sys2Proof.Machine

/-- MULMONT: the CIOS unit on two operands below N (R230–R233). -/
def execMulmont (len : Nat) (ctx : Slot) (dst src1 src2 : Nat) (s : State) : StepResult :=
  finish s (binaryBody cios len ctx dst src1 src2 s)

end Sys2Proof.Machine
end

