-- ==== Sys2Proof/Machine/Select.lean ====
section
/-! DEFINITION. CMPGTE and CSEL (40_limb_primitives.md parts 2 and 3). -/

namespace Sys2Proof.Machine

/-- The body of CMPGTE (R151). -/
def cmpgteBody (len src1 src2 : Nat) (s : State) : Except ErrCode State :=
  checkLimbCount len .lengthMismatch <|
  checkRange src1 (8 * len) <|
  checkRange src2 (8 * len) <|
  .ok (s.setGte (gteL (s.loadOperand src1 len) (s.loadOperand src2 len)))

/-- The body of CSEL (R161). -/
def cselBody (len dst src1 src2 : Nat) (s : State) : Except ErrCode State :=
  checkLimbCount len .lengthMismatch <|
  checkRange src1 (8 * len) <|
  checkRange src2 (8 * len) <|
  checkRange dst (8 * len) <|
  .ok (s.storeOperand dst len (sel s.gte (s.loadOperand src1 len) (s.loadOperand src2 len)))

/-- CMPGTE (R150–R154). -/
def execCmpgte (len src1 src2 : Nat) (s : State) : StepResult :=
  finish s (cmpgteBody len src1 src2 s)

/-- CSEL (R160–R164). -/
def execCsel (len dst src1 src2 : Nat) (s : State) : StepResult :=
  finish s (cselBody len dst src1 src2 s)

end Sys2Proof.Machine
end

