-- ==== Sys2Proof/Machine/Dispatch.lean ====
section
/-! DEFINITION. The meaning of every command: one arm for each constructor of Instr. -/

namespace Sys2Proof.Machine

def exec (i : Instr) (s : State) : Host.Outcome State Fault Refusal :=
  match i with
  | .setmod len ctx src1 => Sys2Proof.Machine.execSetmod len ctx src1 s
  | .setmodi len ctx src1 => Sys2Proof.Machine.execSetmodi len ctx src1 s
  | .clrctx ctx => Sys2Proof.Machine.execClrctx ctx s
  | .addmod len ctx dst src1 src2 => Sys2Proof.Machine.execAddmod len ctx dst src1 src2 s
  | .submod len ctx dst src1 src2 => Sys2Proof.Machine.execSubmod len ctx dst src1 src2 s
  | .mulmont len ctx dst src1 src2 => Sys2Proof.Machine.execMulmont len ctx dst src1 src2 s
  | .tomont len ctx dst src1 => Sys2Proof.Machine.execTomont len ctx dst src1 s
  | .tonorm len ctx dst src1 => Sys2Proof.Machine.execTonorm len ctx dst src1 s
  | .cmpgte len src1 src2 => Sys2Proof.Machine.execCmpgte len src1 src2 s
  | .csel len dst src1 src2 => Sys2Proof.Machine.execCsel len dst src1 src2 s

end Sys2Proof.Machine
end

