-- ==== Sys2Proof/Machine/Execute.lean ====
section
/-! DEFINITION. A write to CMD runs a command (30_encoding.md R117), and a request gets its access and its response
(20_memory.md R95). -/

namespace Sys2Proof.Machine

/-- `Execute(w)`: LASTCMD ← w, then decode, then the command; a word that is no command raises ILLEGAL_CMD (R117, R108). -/
def execute (w : Word) (s : State) : StepResult :=
  match decode w with
  | .ok i => exec i { s with lastCmd := w }
  | .error _ => .next (({ s with lastCmd := w } : State).raise .illegalCmd)

/-- One host transaction (R95). A CMD write is answered OKAY whatever becomes of its command (R302 point 7, R304); its
response stands in the list before the command's effects, in the same atomic step (log 16). -/
def serve (r : Request) (s : State) : StepResult :=
  if r.accepted then
    match r.kind with
    | .read => .next (s.respond .okay (s.readTarget r.size (targetOf r.addr)))
    | .write =>
      if targetOf r.addr = .cmd then execute r.wdata (s.respond .okay 0)
      else .next ((s.writeTarget r.size r.wdata (targetOf r.addr)).respond .okay 0)
  else .next (s.respond .error 0)

/-- The write of a command word to CMD: 8 bytes to 0x1000 (R40, R114). -/
def commandRequest (w : Word) : Request :=
  { kind := .write, addr := 0x1000, size := .eight, wdata := w }

end Sys2Proof.Machine
end

