-- ==== Sys2Proof/Machine/Step.lean ====
section
/-! DEFINITION. One step of the block: it takes the host's next event. -/

namespace Sys2Proof.Machine

/-- One step. With nothing to do the block is idle and unchanged (60_exceptions.md R317; log 7). Otherwise the oldest event
leaves the list and is served: a transaction (R95), or a pulse of the reset input (R340). -/
def step (s : State) : Host.Outcome State Fault Refusal :=
  match s.pending with
  | [] => .next s
  | .reset :: rest => .next ({ s with pending := rest } : State).applyReset
  | .request r :: rest => serve r { s with pending := rest }

/-- The block fetches nothing (R93): its next instruction is the data of the host's next write to CMD. So this puts the CMD
write of the table word in front of the events still to come (log 6). -/
def State.withFetchWord (s : State) (nbits w : Nat) : State :=
  { s with pending := .request (commandRequest (tableWord nbits w)) :: s.pending }

end Sys2Proof.Machine
end

