-- ==== Sys2Proof/Machine/Assembly.lean ====
section
/-! DEFINITION. The assembler's text, the pseudo-instructions and the host actions of programs (30_encoding.md R111–R114). They
stand outside the block: a program is the list of requests it makes of the host port. -/

namespace Sys2Proof.Machine

/-- The pseudo-instructions (R113). -/
inductive Pseudo where
  | copy (len dst a : Nat)
  | max (len dst a b : Nat)
  | min (len dst a b : Nat)
  | montsqr (len : Nat) (ctx : Slot) (dst a : Nat)
  | mulmod (len : Nat) (ctx : Slot) (dst a b : Nat)
deriving DecidableEq, Repr

/-- The commands a pseudo-instruction stands for, in order (R113). -/
def Pseudo.expand : Pseudo → List Instr
  | .copy len dst a => [.csel len dst a a]
  | .max len dst a b => [.cmpgte len a b, .csel len dst a b]
  | .min len dst a b => [.cmpgte len a b, .csel len dst b a]
  | .montsqr len ctx dst a => [.mulmont len ctx dst a a]
  | .mulmod len ctx dst a b => [.mulmont len ctx dst a b, .tomont len ctx dst dst]

/-- A line of a program (R114). -/
inductive ProgramLine where
  | command (i : Instr)
  | pseudo (p : Pseudo)
  /-- `wr64 addr, value`: an 8-byte write. -/
  | wr64 (addr : Nat) (value : Nat)
  /-- `rd64 addr`: an 8-byte read. -/
  | rd64 (addr : Nat)
  /-- `wrbuf addr, L, value`: L aligned 8-byte writes of limbs 0..L−1 of value. -/
  | wrbuf (addr len value : Nat)
deriving DecidableEq, Repr

/-- The lines the assembler takes. A command's operands fit their fields (R111), and a `wrbuf` address is a multiple of 8
(R114). DESIGN CHOICE (log 17): R114 does not say what becomes of a host action whose operand is too wide, and the model
refuses the line: an address of 2^16 or more, a `wr64` value of 2^64 or more, a `wrbuf` value of 2^(64·L) or more, or
`wrbuf` writes beyond address 0xFFFF. -/
def ProgramLine.fits : ProgramLine → Bool
  | .command i => i.wellFormed
  | .pseudo p => p.expand.all Instr.wellFormed
  | .wr64 addr value => decide (addr < 2 ^ 16) && decide (value < 2 ^ 64)
  | .rd64 addr => decide (addr < 2 ^ 16)
  | .wrbuf addr len value =>
    decide (addr % 8 = 0) && decide (addr + 8 * len ≤ 2 ^ 16) && decide (value < 2 ^ (64 * len))

/-- An 8-byte host write. -/
def write64 (addr : Nat) (value : Word) : Request :=
  { kind := .write, addr := BitVec.ofNat 16 addr, size := .eight, wdata := value }

/-- An 8-byte host read (R114). DESIGN CHOICE (log 18, safe): its write data are 0. R95 gives every request a `wdata` field and
neither rule gives a READ a value for it; no step reads it (`serve_read`). -/
def read64 (addr : Nat) : Request :=
  { kind := .read, addr := BitVec.ofNat 16 addr, size := .eight, wdata := 0 }

/-- The bus transactions that a line stands for: a command is the write of its encoding to CMD, a pseudo-instruction one such
write for each command of its expansion (R113, R114). -/
def ProgramLine.requests : ProgramLine → List Request
  | .command i => [commandRequest (encode i)]
  | .pseudo p => p.expand.map (fun i => commandRequest (encode i))
  | .wr64 addr value => [write64 addr (BitVec.ofNat 64 value)]
  | .rd64 addr => [read64 addr]
  | .wrbuf addr len value =>
    (List.range len).map (fun j => write64 (addr + 8 * j) (BitVec.ofNat 64 (value / 2 ^ (64 * j))))

/-! ### Printing (R111, R112) -/

/-- One hexadecimal digit, in capitals as the spec's listings have them (log 14). -/
def hexDigit (d : Nat) : Char := if d < 10 then Char.ofNat (48 + d) else Char.ofNat (55 + d)

/-- The low `width` hexadecimal digits of a number, most significant first. -/
def hexText : Nat → Nat → List Char
  | 0, _ => []
  | width + 1, n => hexText width (n / 16) ++ [hexDigit (n % 16)]

/-- An offset operand: `@0x` and three digits (R112). -/
def offsetText (off : Nat) : String := "@0x" ++ String.ofList (hexText 3 off)

/-- A slot operand (R111). -/
def slotText (k : Slot) : String := "c" ++ toString k.val

/-- A mnemonic with its LEN suffix, in decimal (R111, R112). -/
def sizedText (mnemonic : String) (len : Nat) : String := mnemonic ++ ".L" ++ toString len ++ " "

/-- The table of R111: a command as text. -/
def instrText : Instr → String
  | .setmod len k a => sizedText "setmod" len ++ slotText k ++ ", " ++ offsetText a
  | .setmodi len k a => sizedText "setmodi" len ++ slotText k ++ ", " ++ offsetText a
  | .clrctx k => "clrctx " ++ slotText k
  | .addmod len k d a b =>
    sizedText "addmod" len ++ slotText k ++ ", " ++ offsetText d ++ ", " ++ offsetText a ++ ", " ++ offsetText b
  | .submod len k d a b =>
    sizedText "submod" len ++ slotText k ++ ", " ++ offsetText d ++ ", " ++ offsetText a ++ ", " ++ offsetText b
  | .mulmont len k d a b =>
    sizedText "mulmont" len ++ slotText k ++ ", " ++ offsetText d ++ ", " ++ offsetText a ++ ", " ++ offsetText b
  | .tomont len k d a => sizedText "tomont" len ++ slotText k ++ ", " ++ offsetText d ++ ", " ++ offsetText a
  | .tonorm len k d a => sizedText "tonorm" len ++ slotText k ++ ", " ++ offsetText d ++ ", " ++ offsetText a
  | .cmpgte len a b => sizedText "cmpgte" len ++ offsetText a ++ ", " ++ offsetText b
  | .csel len d a b => sizedText "csel" len ++ offsetText d ++ ", " ++ offsetText a ++ ", " ++ offsetText b

/-- The disassembler (R112). -/
def disassemble (w : Word) : String :=
  match decode w with
  | .ok i => instrText i
  | .error _ => ".illegal 0x" ++ String.ofList (hexText 16 w.toNat)

/-! ### Reading (R111, R113, R114) -/

/-- An operand as it is written. -/
inductive AsmOperand where
  | slot (k : Nat)
  | offset (off : Nat)
  | number (n : Nat)
deriving DecidableEq, Repr

/-- The value of a digit in a base, if the character is one of its digits. -/
def digitOf (base : Nat) (c : Char) : Option Nat :=
  let v :=
    if 48 ≤ c.toNat ∧ c.toNat ≤ 57 then c.toNat - 48
    else if 65 ≤ c.toNat ∧ c.toNat ≤ 70 then c.toNat - 55
    else if 97 ≤ c.toNat ∧ c.toNat ≤ 102 then c.toNat - 87
    else base
  if v < base then some v else none

/-- The digits after a value already read. -/
def readDigits (base : Nat) : List Char → Nat → Option Nat
  | [], v => some v
  | c :: cs, v =>
    match digitOf base c with
    | some d => readDigits base cs (v * base + d)
    | none => none

/-- A number in a base: one digit or more, `_` between them being a visual separator only (R8). -/
def readNumberIn (base : Nat) (cs : List Char) : Option Nat :=
  match cs.filter (fun c => c ≠ '_') with
  | [] => none
  | ds => readDigits base ds 0

/-- A number, hexadecimal after `0x` and decimal without it (R8, R111). -/
def readNumber : List Char → Option Nat
  | '0' :: 'x' :: cs => readNumberIn 16 cs
  | cs => readNumberIn 10 cs

/-- An operand: `c<k>`, `@<offset>` or a plain number (R111, R114). -/
def readOperand : List Char → Option AsmOperand
  | 'c' :: cs => (readNumberIn 10 cs).map AsmOperand.slot
  | '@' :: cs => (readNumber cs).map AsmOperand.offset
  | cs => (readNumber cs).map AsmOperand.number

/-- A text cut at every occurrence of a separator. -/
def cutAt (sep : Char) : List Char → List (List Char)
  | [] => [[]]
  | c :: cs =>
    if c = sep then [] :: cutAt sep cs
    else
      match cutAt sep cs with
      | [] => [[c]]
      | part :: parts => (c :: part) :: parts

/-- Every operand of a list, or none when one of them is no operand. -/
def readOperands : List (List Char) → Option (List AsmOperand)
  | [] => some []
  | cs :: rest =>
    match readOperand cs, readOperands rest with
    | some o, some os => some (o :: os)
    | _, _ => none

/-- The mnemonic of a line and its `.L<n>` suffix, where it has one (R111). -/
def readMnemonic (cs : List Char) : Option (String × Option Nat) :=
  match cutAt '.' cs with
  | [name] => some (String.ofList name, none)
  | [name, 'L' :: digits] => (readNumberIn 10 digits).map (fun n => (String.ofList name, some n))
  | _ => none

/-- A slot number, where it is one: the assembler refuses k > 3 (R111). -/
def slotOf (k : Nat) : Option Slot := if h : k < 4 then some ⟨k, h⟩ else none

/-- The line that a mnemonic, a suffix and operands make (R111, R113, R114), before the fields are checked. -/
def buildLine (name : String) (len : Option Nat) (ops : List AsmOperand) : Option ProgramLine :=
  match name, len, ops with
  | "setmod", some n, [.slot k, .offset a] => (slotOf k).map (fun k => .command (.setmod n k a))
  | "setmodi", some n, [.slot k, .offset a] => (slotOf k).map (fun k => .command (.setmodi n k a))
  | "clrctx", none, [.slot k] => (slotOf k).map (fun k => .command (.clrctx k))
  | "addmod", some n, [.slot k, .offset d, .offset a, .offset b] => (slotOf k).map (fun k => .command (.addmod n k d a b))
  | "submod", some n, [.slot k, .offset d, .offset a, .offset b] => (slotOf k).map (fun k => .command (.submod n k d a b))
  | "mulmont", some n, [.slot k, .offset d, .offset a, .offset b] => (slotOf k).map (fun k => .command (.mulmont n k d a b))
  | "tomont", some n, [.slot k, .offset d, .offset a] => (slotOf k).map (fun k => .command (.tomont n k d a))
  | "tonorm", some n, [.slot k, .offset d, .offset a] => (slotOf k).map (fun k => .command (.tonorm n k d a))
  | "cmpgte", some n, [.offset a, .offset b] => some (.command (.cmpgte n a b))
  | "csel", some n, [.offset d, .offset a, .offset b] => some (.command (.csel n d a b))
  | "copy", some n, [.offset d, .offset a] => some (.pseudo (.copy n d a))
  | "max", some n, [.offset d, .offset a, .offset b] => some (.pseudo (.max n d a b))
  | "min", some n, [.offset d, .offset a, .offset b] => some (.pseudo (.min n d a b))
  | "montsqr", some n, [.slot k, .offset d, .offset a] => (slotOf k).map (fun k => .pseudo (.montsqr n k d a))
  | "mulmod", some n, [.slot k, .offset d, .offset a, .offset b] => (slotOf k).map (fun k => .pseudo (.mulmod n k d a b))
  | "wr64", none, [.number addr, .number value] => some (.wr64 addr value)
  | "rd64", none, [.number addr] => some (.rd64 addr)
  | "wrbuf", none, [.number addr, .number n, .number value] => some (.wrbuf addr n value)
  | _, _, _ => none

/-- The assembler on one line: a mnemonic, a space, operands separated by commas; spaces among the operands are ignored
(log 14). It refuses a line that fits no form of R111, R113 or R114, and an operand that does not fit its field. -/
def assemble (line : String) : Option ProgramLine :=
  match cutAt ' ' line.toList with
  | [] => none
  | head :: rest =>
    match readMnemonic head, readOperands (cutAt ',' rest.flatten) with
    | some (name, len), some ops => (buildLine name len ops).filter ProgramLine.fits
    | _, _ => none

/-- A program's transactions: those of its lines in order, or none when the assembler refuses a line (R114). -/
def assembleProgram : List String → Option (List Request)
  | [] => some []
  | line :: rest =>
    match assemble line, assembleProgram rest with
    | some l, some rs => some (l.requests ++ rs)
    | _, _ => none

end Sys2Proof.Machine
end

