-- ==== Sys2Proof/Safety.lean ====
section
/-! DEFINITION. What counts as a safe state: the invariant of every reachable state that the spec names (10_state.md R48, R49;
93_implementation_defined.md I14), and what a run shows the outside (70_reset_and_hazards.md R363). -/

namespace Sys2Proof.Machine

/-- A valid slot, as R48 describes it: every point of that rule. -/
structure Context.Sound (c : Context) : Prop where
  /-- 1 ≤ L. -/
  lenPos : 1 ≤ c.len.toNat
  /-- L ≤ 12. -/
  lenLe : c.len.toNat ≤ 12
  /-- MOD[0] is odd. -/
  odd : (c.mod.toList.getD 0 0).toNat % 2 = 1
  /-- MOD[L−1] ≠ 0. -/
  topLimb : c.mod.toList.getD (c.len.toNat - 1) 0 ≠ 0
  /-- MOD[j] = 0 and R2[j] = 0 for L ≤ j ≤ 11. -/
  highZero : ∀ j : Fin 12, c.len.toNat ≤ j.val → c.mod[j] = 0 ∧ c.r2[j] = 0
  /-- (N · MODINV + 1) mod 2^64 = 0. -/
  modInvRight : (c.modulus * c.modInv.toNat + 1) % 2 ^ 64 = 0
  /-- Val(R2[0..L−1]) = 2^(128·L) mod N. -/
  r2Right : valOf (c.r2Limbs c.len.toNat) = 2 ^ (128 * c.len.toNat) % c.modulus

/-- What every reachable state meets: each slot is sound or empty (R48, R49), STATUS.ERR is at most 7 (R300, I14), and the
memory is in its canonical form. -/
structure State.Inv (s : State) : Prop where
  ramWf : Memory.wf s.ram = true
  slotSound : ∀ k : Slot, (s.slot k).valid = true → (s.slot k).Sound
  slotEmpty : ∀ k : Slot, (s.slot k).valid = false → s.slot k = Context.empty
  errLow : s.err.toNat ≤ 7

/-- The outcome of a run that its outside can see (R363). -/
structure Observation where
  responses : List Response
  /-- The whole RAM, every byte of it: those that nothing has written since reset are readable too. -/
  ram : Vector Byte Config.opramBytes
  ctx : Vector Context 4
  status : Word
  lastCmd : Word
deriving DecidableEq, Repr

/-- RAM[0..4095] as values: the byte at each offset, whether listed or still the free value (R33, R341; log 1). -/
def State.ramBytes (s : State) : Vector Byte Config.opramBytes := Vector.ofFn (fun off => s.byteAt off.val)

/-- What a state shows (R363). -/
def State.observe (s : State) : Observation :=
  { responses := s.responses, ram := s.ramBytes, ctx := s.ctx, status := s.statusWord, lastCmd := s.lastCmd }

/-- The run is over: the last transaction has its response (R363). -/
def State.finished (s : State) : Bool := s.pending.isEmpty

/-! ### Terms that claims use -/

/-- The host's next event is the write of a command word to CMD. -/
def State.writesCmd (s : State) (w : Word) (rest : List HostEvent) : Prop :=
  s.pending = .request (commandRequest w) :: rest

/-- The state in which the command of that write runs: the event is taken, the response given, LASTCMD written (R40, R117). -/
def State.acceptCmd (s : State) (w : Word) (rest : List HostEvent) : State :=
  { s with pending := rest, responses := s.responses ++ [{ resp := .okay, rdata := 0 }], lastCmd := w }

/-- The slot holds a context whose L is `len`, which is what CheckCtx asks (R119). -/
def State.contextReady (s : State) (k : Slot) (len : Nat) : Prop :=
  (s.slot k).valid = true ∧ len = (s.slot k).len.toNat

/-- N, the modulus of the context in a slot (R11). -/
def State.modulus (s : State) (k : Slot) : Nat := (s.slot k).modulus

/-- The 8-byte host write of a word to STATUS (R38). -/
def statusRequest (wdata : Word) : Request :=
  { kind := .write, addr := 0x1008, size := .eight, wdata := wdata }

end Sys2Proof.Machine

namespace Sys2Proof

/-- The bytes of the operand RAM a command stores to: its DST and 8·LEN (20_memory.md R78); none for a command that stores
nothing. -/
def Instr.storedRange : Instr → Option (Nat × Nat)
  | .setmod _ _ _ => none
  | .setmodi _ _ _ => none
  | .clrctx _ => none
  | .addmod len _ dst _ _ => some (dst, 8 * len)
  | .submod len _ dst _ _ => some (dst, 8 * len)
  | .mulmont len _ dst _ _ => some (dst, 8 * len)
  | .tomont len _ dst _ => some (dst, 8 * len)
  | .tonorm len _ dst _ => some (dst, 8 * len)
  | .cmpgte _ _ _ => none
  | .csel len dst _ _ => some (dst, 8 * len)

/-- The context slot a command writes (10_state.md R50); none for a command that writes none. -/
def Instr.writtenSlot : Instr → Option Slot
  | .setmod _ ctx _ => some ctx
  | .setmodi _ ctx _ => some ctx
  | .clrctx ctx => some ctx
  | .addmod _ _ _ _ _ => none
  | .submod _ _ _ _ _ => none
  | .mulmont _ _ _ _ _ => none
  | .tomont _ _ _ _ => none
  | .tonorm _ _ _ _ => none
  | .cmpgte _ _ _ => none
  | .csel _ _ _ _ => none

/-- The command is SETMOD or SETMODI on this slot: the commands whose error clears it (43_montgomery_context.md R256). -/
def Instr.setsContext : Instr → Option Slot
  | .setmod _ ctx _ => some ctx
  | .setmodi _ ctx _ => some ctx
  | .clrctx _ => none
  | .addmod _ _ _ _ _ => none
  | .submod _ _ _ _ _ => none
  | .mulmont _ _ _ _ _ => none
  | .tomont _ _ _ _ => none
  | .tonorm _ _ _ _ => none
  | .cmpgte _ _ _ => none
  | .csel _ _ _ _ => none

/-- The command is CMPGTE. -/
def Instr.isCmpgte : Instr → Bool
  | .cmpgte _ _ _ => true
  | .setmod _ _ _ => false
  | .setmodi _ _ _ => false
  | .clrctx _ => false
  | .addmod _ _ _ _ _ => false
  | .submod _ _ _ _ _ => false
  | .mulmont _ _ _ _ _ => false
  | .tomont _ _ _ _ => false
  | .tonorm _ _ _ _ => false
  | .csel _ _ _ _ => false

/-- The command is CSEL. -/
def Instr.isCsel : Instr → Bool
  | .csel _ _ _ _ => true
  | .setmod _ _ _ => false
  | .setmodi _ _ _ => false
  | .clrctx _ => false
  | .addmod _ _ _ _ _ => false
  | .submod _ _ _ _ _ => false
  | .mulmont _ _ _ _ _ => false
  | .tomont _ _ _ _ => false
  | .tonorm _ _ _ _ => false
  | .cmpgte _ _ _ => false

end Sys2Proof
end

