-- ==== Sys2Proof/Certificates/Slice0/Obligations.lean ====
section
/-! DEFINITION. The statements for the provers, in the order of OBLIGATIONS.json. -/

open Sys2Proof Sys2Proof.Machine

/-! ### Encoding and decode -/

/-- Encoding loses nothing: a command whose operands fit their fields decodes to itself, with every operand at every value
(R101, R106, R108, R111). -/
def Obligations.DecodeOfEncodeIsTheCommand : Prop :=
  ∀ i : Instr, i.wellFormed = true → decode (encode i) = .ok i

/-- Each legal word has one meaning and one command one word: the word a command was decoded from is that command's encoding,
and its operands fit their fields (R101, R105, R106). -/
def Obligations.EncodeOfDecodeIsTheWord : Prop :=
  ∀ (w : Word) (i : Instr), decode w = .ok i → encode i = w ∧ i.wellFormed = true

/-- R106: a word selects a mnemonic exactly when (w AND mask) = match, with the table's masks and matches; a word that selects
none raises ILLEGAL_CMD. -/
def Obligations.WordSelectsExactlyTheMatchingRow : Prop :=
  Opcode.all.map (fun o => (o.mask, o.pattern)) =
    [(0xFFFFFF000FFFC0FF, 0x01), (0xFFFFFF000FFFC0FF, 0x02), (0xFFFFFFFFFFFFCFFF, 0x03), (0xFFF000000000C0FF, 0x10),
     (0xFFF000000000C0FF, 0x11), (0xFFF000000000C0FF, 0x12), (0xFFFFFF000000C0FF, 0x13), (0xFFFFFF000000C0FF, 0x14),
     (0xFFF000000FFFF0FF, 0x20), (0xFFF000000000F0FF, 0x21)] ∧
  (∀ (w : Word) (o : Opcode), (∃ i, decode w = .ok i ∧ i.opcode = o) ↔ w &&& o.mask = o.pattern) ∧
  (∀ (s : State) (w : Word) (rest : List HostEvent), s.writesCmd w rest → (∀ o : Opcode, w &&& o.mask ≠ o.pattern) →
    step s = .next ((s.acceptCmd w rest).raise .illegalCmd))

/-- R115: the ten listed words, as text, as commands and as encodings. -/
def Obligations.ListedWordsAssembleAndDecode : Prop :=
  (assemble "addmod.L4 c0, @0x100, @0x000, @0x040" = some (.command (.addmod 4 0 0x100 0x000 0x040)) ∧
    encode (.addmod 4 0 0x100 0x000 0x040) = 0x0000400001000410 ∧
    decode 0x0000400001000410 = .ok (.addmod 4 0 0x100 0x000 0x040)) ∧
  (assemble "setmod.L6 c1, @0x200" = some (.command (.setmod 6 1 0x200)) ∧
    encode (.setmod 6 1 0x200) = 0x0000002000001601 ∧ decode 0x0000002000001601 = .ok (.setmod 6 1 0x200)) ∧
  (assemble "setmodi.L4 c2, @0x300" = some (.command (.setmodi 4 2 0x300)) ∧
    encode (.setmodi 4 2 0x300) = 0x0000003000002402 ∧ decode 0x0000003000002402 = .ok (.setmodi 4 2 0x300)) ∧
  (assemble "clrctx c3" = some (.command (.clrctx 3)) ∧
    encode (.clrctx 3) = 0x0000000000003003 ∧ decode 0x0000000000003003 = .ok (.clrctx 3)) ∧
  (assemble "cmpgte.L2 @0x010, @0x020" = some (.command (.cmpgte 2 0x010 0x020)) ∧
    encode (.cmpgte 2 0x010 0x020) = 0x0000200100000220 ∧ decode 0x0000200100000220 = .ok (.cmpgte 2 0x010 0x020)) ∧
  (assemble "csel.L2 @0x030, @0x010, @0x020" = some (.command (.csel 2 0x030 0x010 0x020)) ∧
    encode (.csel 2 0x030 0x010 0x020) = 0x0000200100300221 ∧ decode 0x0000200100300221 = .ok (.csel 2 0x030 0x010 0x020)) ∧
  (assemble "tomont.L6 c1, @0x0C0, @0x060" = some (.command (.tomont 6 1 0x0C0 0x060)) ∧
    encode (.tomont 6 1 0x0C0 0x060) = 0x0000000600C01613 ∧ decode 0x0000000600C01613 = .ok (.tomont 6 1 0x0C0 0x060)) ∧
  (assemble "tonorm.L6 c1, @0x060, @0x0C0" = some (.command (.tonorm 6 1 0x060 0x0C0)) ∧
    encode (.tonorm 6 1 0x060 0x0C0) = 0x0000000C00601614 ∧ decode 0x0000000C00601614 = .ok (.tonorm 6 1 0x060 0x0C0)) ∧
  (assemble "mulmont.L12 c3, @0xFA0, @0xF40, @0xEE0" = some (.command (.mulmont 12 3 0xFA0 0xF40 0xEE0)) ∧
    encode (.mulmont 12 3 0xFA0 0xF40 0xEE0) = 0x000EE0F40FA03C12 ∧
    decode 0x000EE0F40FA03C12 = .ok (.mulmont 12 3 0xFA0 0xF40 0xEE0)) ∧
  (assemble "submod.L1 c0, @0x008, @0x008, @0x008" = some (.command (.submod 1 0 0x008 0x008 0x008)) ∧
    encode (.submod 1 0 0x008 0x008 0x008) = 0x0000080080080111 ∧
    decode 0x0000080080080111 = .ok (.submod 1 0 0x008 0x008 0x008))

/-- A step runs the decoded command: when the host's next event writes a word to CMD and the word decodes to i, the step is
`exec` of i, with what a step adds around it: the event taken, the OKAY response given, LASTCMD written (R40, R117). -/
def Obligations.StepRunsTheDecodedCommand : Prop :=
  ∀ (s : State) (w : Word) (rest : List HostEvent) (i : Instr), s.writesCmd w rest → decode w = .ok i →
    step s = exec i (s.acceptCmd w rest)

/-- R105 and R109, field by field and without the masks: an unassigned OPC, a non-zero reserved bit or a non-zero unused field
raises ILLEGAL_CMD, and every other word decodes. -/
def Obligations.IllegalFieldsRaiseIllegalCmd : Prop :=
  ∀ (s : State) (w : Word) (rest : List HostEvent), s.writesCmd w rest →
    let illegal :=
      (¬ (fieldOpc w ∈ [(0x01 : BitVec 8), 0x02, 0x03, 0x10, 0x11, 0x12, 0x13, 0x14, 0x20, 0x21])) ∨
      fieldRsvd0 w ≠ 0 ∨ fieldRsvd1 w ≠ 0 ∨
      ((fieldOpc w = 0x01 ∨ fieldOpc w = 0x02) ∧ (fieldDst w ≠ 0 ∨ fieldSrc2 w ≠ 0)) ∨
      (fieldOpc w = 0x03 ∧ (fieldLen w ≠ 0 ∨ fieldDst w ≠ 0 ∨ fieldSrc1 w ≠ 0 ∨ fieldSrc2 w ≠ 0)) ∨
      ((fieldOpc w = 0x13 ∨ fieldOpc w = 0x14) ∧ fieldSrc2 w ≠ 0) ∨
      (fieldOpc w = 0x20 ∧ (fieldCtx w ≠ 0 ∨ fieldDst w ≠ 0)) ∨
      (fieldOpc w = 0x21 ∧ fieldCtx w ≠ 0)
    (illegal → step s = .next ((s.acceptCmd w rest).raise .illegalCmd)) ∧
    (¬ illegal → ∃ i, decode w = .ok i ∧ step s = exec i (s.acceptCmd w rest))

/-! ### What each command does -/

/-- CMPGTE completes and compares the two integers (R145, R151): GTE ← (a ≥ b), ERR ← 0, and nothing else changes. -/
def Obligations.CmpgteComparesIntegers : Prop :=
  ∀ (s : State) (len src1 src2 : Nat), 1 ≤ len → len ≤ 12 → src1 + 8 * len ≤ 4096 → src2 + 8 * len ≤ 4096 →
    exec (.cmpgte len src1 src2) s =
      .next { s with gte := decide (s.memRead src2 (8 * len) ≤ s.memRead src1 (8 * len)), err := 0 }

/-- CSEL completes and writes the selected operand, as it stood before the write, to DST (R161, R164). -/
def Obligations.CselWritesTheSelectedOperand : Prop :=
  ∀ (s : State) (len dst src1 src2 : Nat), 1 ≤ len → len ≤ 12 → src1 + 8 * len ≤ 4096 → src2 + 8 * len ≤ 4096 →
    dst + 8 * len ≤ 4096 →
    exec (.csel len dst src1 src2) s =
      .next { s.memWrite dst (8 * len) (if s.gte then s.memRead src1 (8 * len) else s.memRead src2 (8 * len)) with
        err := 0 }

/-- R200: ADDMOD completes and writes (x + y) mod N, SUBMOD (x − y) mod N, both below N. Nothing else changes but ERR. -/
def Obligations.AddmodAndSubmodComputeModN : Prop :=
  ∀ (s : State) (len : Nat) (k : Slot) (dst src1 src2 : Nat), s.Inv → s.contextReady k len →
    src1 + 8 * len ≤ 4096 → src2 + 8 * len ≤ 4096 → dst + 8 * len ≤ 4096 →
    s.memRead src1 (8 * len) < s.modulus k → s.memRead src2 (8 * len) < s.modulus k →
    exec (.addmod len k dst src1 src2) s =
      .next { s.memWrite dst (8 * len) ((s.memRead src1 (8 * len) + s.memRead src2 (8 * len)) % s.modulus k) with
        err := 0 } ∧
    exec (.submod len k dst src1 src2) s =
      .next { s.memWrite dst (8 * len)
        (((s.memRead src1 (8 * len) : Int) - (s.memRead src2 (8 * len) : Int)) % (s.modulus k : Int)).toNat with
        err := 0 } ∧
    (s.memRead src1 (8 * len) + s.memRead src2 (8 * len)) % s.modulus k < s.modulus k ∧
    (((s.memRead src1 (8 * len) : Int) - (s.memRead src2 (8 * len) : Int)) % (s.modulus k : Int)).toNat < s.modulus k

/-- MULMONT completes and writes the Montgomery product: the t below N with t·R ≡ x·y (mod N), R = 2^(64·L)
(R210, R221, R231). -/
def Obligations.MulmontComputesTheMontgomeryProduct : Prop :=
  ∀ (s : State) (len : Nat) (k : Slot) (dst src1 src2 : Nat), s.Inv → s.contextReady k len →
    src1 + 8 * len ≤ 4096 → src2 + 8 * len ≤ 4096 → dst + 8 * len ≤ 4096 →
    s.memRead src1 (8 * len) < s.modulus k → s.memRead src2 (8 * len) < s.modulus k →
    ∃ t, t < s.modulus k ∧
      (t * 2 ^ (64 * len)) % s.modulus k =
        (s.memRead src1 (8 * len) * s.memRead src2 (8 * len)) % s.modulus k ∧
      exec (.mulmont len k dst src1 src2) s = .next { s.memWrite dst (8 * len) t with err := 0 }

/-- R279: for every valid context and every x below R, TOMONT completes and writes x·R mod N, which is below N. -/
def Obligations.TomontMultipliesByR : Prop :=
  ∀ (s : State) (len : Nat) (k : Slot) (dst src1 : Nat), s.Inv → s.contextReady k len →
    src1 + 8 * len ≤ 4096 → dst + 8 * len ≤ 4096 →
    exec (.tomont len k dst src1) s =
      .next { s.memWrite dst (8 * len) ((s.memRead src1 (8 * len) * 2 ^ (64 * len)) % s.modulus k) with err := 0 } ∧
    (s.memRead src1 (8 * len) * 2 ^ (64 * len)) % s.modulus k < s.modulus k

/-- R286: for every valid context and every x below R, TONORM completes and writes the t below N with t·R ≡ x (mod N), which
is x·R⁻¹ mod N. Before the final correction Val(T)·R < x + N·R, so the overflow limb is 0 and branch A cannot run. -/
def Obligations.TonormDividesByR : Prop :=
  ∀ (s : State) (len : Nat) (k : Slot) (dst src1 : Nat), s.Inv → s.contextReady k len →
    src1 + 8 * len ≤ 4096 → dst + 8 * len ≤ 4096 →
    let loop := ciosLoop (s.loadOperand src1 len) (oneLimbs len) ((s.slot k).modLimbs len) (s.slot k).modInv
    (∃ t, t < s.modulus k ∧ (t * 2 ^ (64 * len)) % s.modulus k = s.memRead src1 (8 * len) % s.modulus k ∧
      exec (.tonorm len k dst src1) s = .next { s.memWrite dst (8 * len) t with err := 0 }) ∧
    loop.val * 2 ^ (64 * len) < s.memRead src1 (8 * len) + s.modulus k * 2 ^ (64 * len) ∧
    loop.val < s.modulus k + 1 ∧ loop.tL = 0

/-- SETMOD completes on an odd modulus that fills its top limb, and the slot then holds a sound context of that modulus: its L,
its MODINV (R252), its R2 (R253) and zero limbs above L (R251). No RAM byte and no other slot changes. -/
def Obligations.SetmodBuildsTheContext : Prop :=
  ∀ (s : State) (len : Nat) (k : Slot) (src1 : Nat), 1 ≤ len → len ≤ 12 → src1 + 8 * len ≤ 4096 →
    s.memRead src1 (8 * len) % 2 = 1 → 2 ^ (64 * (len - 1)) ≤ s.memRead src1 (8 * len) →
    ∃ c : Context, c.valid = true ∧ c.len.toNat = len ∧ c.modulus = s.memRead src1 (8 * len) ∧ c.Sound ∧
      exec (.setmod len k src1) s = .next { s with ctx := s.ctx.set k c, err := 0 }

/-- R262: on a modulus that SETMOD accepts, SETMODI completes exactly when the host's constant is the right one, and then it
creates the context that SETMOD creates; with any other constant it raises INVALID_MODULUS and clears the slot. -/
def Obligations.SetmodiAcceptsOnlyTheRightConstant : Prop :=
  ∀ (s : State) (len : Nat) (k : Slot) (src1 : Nat), 1 ≤ len → len ≤ 12 → src1 + 8 * len + 8 ≤ 4096 →
    s.memRead src1 (8 * len) % 2 = 1 → 2 ^ (64 * (len - 1)) ≤ s.memRead src1 (8 * len) →
    ((s.memRead src1 (8 * len) * s.memRead (src1 + 8 * len) 8 + 1) % 2 ^ 64 = 0 →
      ∃ c : Context, c.valid = true ∧ c.len.toNat = len ∧ c.modulus = s.memRead src1 (8 * len) ∧
        c.modInv.toNat = s.memRead (src1 + 8 * len) 8 ∧ c.Sound ∧
        exec (.setmodi len k src1) s = .next { s with ctx := s.ctx.set k c, err := 0 } ∧
        exec (.setmod len k src1) s = .next { s with ctx := s.ctx.set k c, err := 0 }) ∧
    ((s.memRead src1 (8 * len) * s.memRead (src1 + 8 * len) 8 + 1) % 2 ^ 64 ≠ 0 →
      exec (.setmodi len k src1) s =
        .next { s with ctx := s.ctx.set k Context.empty, err := 5, sticky := true })

/-- CLRCTX completes and leaves its slot invalid with every field 0, the other slots as they were (R256, R269, R271). -/
def Obligations.ClrctxEmptiesItsSlot : Prop :=
  ∀ (s : State) (k : Slot), ∃ t,
    exec (.clrctx k) s = .next t ∧ t = { s with ctx := s.ctx.set k Context.empty, err := 0 } ∧
    t.slot k = { valid := false, len := 0, mod := Vector.replicate 12 0, modInv := 0, r2 := Vector.replicate 12 0 } ∧
    ∀ j : Slot, j ≠ k → t.slot j = s.slot j

/-- R290: converting a value below N into the Montgomery domain and back gives the value. -/
def Obligations.TonormUndoesTomont : Prop :=
  ∀ (s : State) (len : Nat) (k : Slot) (dst mid src1 : Nat), s.Inv → s.contextReady k len →
    src1 + 8 * len ≤ 4096 → mid + 8 * len ≤ 4096 → dst + 8 * len ≤ 4096 →
    s.memRead src1 (8 * len) < s.modulus k →
    ∃ t u, exec (.tomont len k mid src1) s = .next t ∧ exec (.tonorm len k dst mid) t = .next u ∧
      t.err = 0 ∧ u.err = 0 ∧ u.memRead dst (8 * len) = s.memRead src1 (8 * len)

/-- R291: TONORM of the MULMONT of two TOMONTs is the product mod N. The two intermediate buffers must not overwrite what is
still to be read. -/
def Obligations.MontgomeryPipelineMultiplies : Prop :=
  ∀ (s : State) (len : Nat) (k : Slot) (dst p q m x y : Nat), s.Inv → s.contextReady k len →
    x + 8 * len ≤ 4096 → y + 8 * len ≤ 4096 → p + 8 * len ≤ 4096 → q + 8 * len ≤ 4096 →
    m + 8 * len ≤ 4096 → dst + 8 * len ≤ 4096 →
    (p + 8 * len ≤ y ∨ y + 8 * len ≤ p) → (p + 8 * len ≤ q ∨ q + 8 * len ≤ p) →
    s.memRead x (8 * len) < s.modulus k → s.memRead y (8 * len) < s.modulus k →
    ∃ s1 s2 s3 s4, exec (.tomont len k p x) s = .next s1 ∧ exec (.tomont len k q y) s1 = .next s2 ∧
      exec (.mulmont len k m p q) s2 = .next s3 ∧ exec (.tonorm len k dst m) s3 = .next s4 ∧
      s1.err = 0 ∧ s2.err = 0 ∧ s3.err = 0 ∧ s4.err = 0 ∧
      s4.memRead dst (8 * len) = (s.memRead x (8 * len) * s.memRead y (8 * len)) % s.modulus k

/-- R292: for every valid context, ADDMOD, SUBMOD and MULMONT of two zeros, and TOMONT and TONORM of zero, each write 0. -/
def Obligations.ZeroOperandsGiveZero : Prop :=
  ∀ (s : State) (len : Nat) (k : Slot) (dst src1 src2 : Nat), s.Inv → s.contextReady k len →
    src1 + 8 * len ≤ 4096 → src2 + 8 * len ≤ 4096 → dst + 8 * len ≤ 4096 →
    s.memRead src1 (8 * len) = 0 → s.memRead src2 (8 * len) = 0 →
    ∀ i ∈ [Instr.addmod len k dst src1 src2, .submod len k dst src1 src2, .mulmont len k dst src1 src2,
           .tomont len k dst src1, .tonorm len k dst src1],
      exec i s = .next { s.memWrite dst (8 * len) 0 with err := 0 }

/-- R113, `max` and `min`: the two-command expansions leave the larger and the smaller operand in d, and GTE = (a ≥ b). -/
def Obligations.MaxAndMinExpansions : Prop :=
  ∀ (s : State) (len dst a b : Nat), 1 ≤ len → len ≤ 12 →
    a + 8 * len ≤ 4096 → b + 8 * len ≤ 4096 → dst + 8 * len ≤ 4096 →
    (Pseudo.max len dst a b).expand = [.cmpgte len a b, .csel len dst a b] ∧
    (Pseudo.min len dst a b).expand = [.cmpgte len a b, .csel len dst b a] ∧
    ∃ t u v, exec (.cmpgte len a b) s = .next t ∧ exec (.csel len dst a b) t = .next u ∧
      exec (.csel len dst b a) t = .next v ∧
      u.memRead dst (8 * len) = max (s.memRead a (8 * len)) (s.memRead b (8 * len)) ∧
      v.memRead dst (8 * len) = min (s.memRead a (8 * len)) (s.memRead b (8 * len)) ∧
      u.gte = decide (s.memRead b (8 * len) ≤ s.memRead a (8 * len)) ∧ v.gte = u.gte ∧ u.err = 0 ∧ v.err = 0

/-- R113, `mulmod`: MULMONT and then TOMONT in place leave a·b mod N in d, for a, b below N. -/
def Obligations.MulmodExpansionMultiplies : Prop :=
  ∀ (s : State) (len : Nat) (k : Slot) (dst a b : Nat), s.Inv → s.contextReady k len →
    a + 8 * len ≤ 4096 → b + 8 * len ≤ 4096 → dst + 8 * len ≤ 4096 →
    s.memRead a (8 * len) < s.modulus k → s.memRead b (8 * len) < s.modulus k →
    (Pseudo.mulmod len k dst a b).expand = [.mulmont len k dst a b, .tomont len k dst dst] ∧
    ∃ t u, exec (.mulmont len k dst a b) s = .next t ∧ exec (.tomont len k dst dst) t = .next u ∧
      t.err = 0 ∧ u.err = 0 ∧
      u.memRead dst (8 * len) = (s.memRead a (8 * len) * s.memRead b (8 * len)) % s.modulus k

/-! ### Errors -/

/-- R183, R193, R233: the errors of ADDMOD, SUBMOD and MULMONT in their order, from the command word: reserved bit, no context,
length, bounds, value. INTERNAL_INVARIANT is never reached. -/
def Obligations.ModularOperatorErrorsInOrder : Prop :=
  ∀ (s : State) (w : Word) (rest : List HostEvent), s.Inv → s.writesCmd w rest →
    (fieldOpc w = 0x10 ∨ fieldOpc w = 0x11 ∨ fieldOpc w = 0x12) →
    let k := fieldCtx w
    let n := 8 * fieldLen w
    ∃ t, step s = .next t ∧ t.err =
      (if fieldRsvd0 w ≠ 0 ∨ fieldRsvd1 w ≠ 0 then 1
       else if (s.slot k).valid = false then 2
       else if fieldLen w ≠ (s.slot k).len.toNat then 3
       else if 4096 < fieldSrc1 w + n ∨ 4096 < fieldSrc2 w + n ∨ 4096 < fieldDst w + n then 4
       else if s.modulus k ≤ s.memRead (fieldSrc1 w) n ∨ s.modulus k ≤ s.memRead (fieldSrc2 w) n then 6
       else 0)

/-- R278, R285: the errors of TOMONT and TONORM in their order. There is no value check: every x is accepted, and
INTERNAL_INVARIANT is never reached. -/
def Obligations.ConversionErrorsInOrder : Prop :=
  ∀ (s : State) (w : Word) (rest : List HostEvent), s.Inv → s.writesCmd w rest →
    (fieldOpc w = 0x13 ∨ fieldOpc w = 0x14) →
    let k := fieldCtx w
    let n := 8 * fieldLen w
    ∃ t, step s = .next t ∧ t.err =
      (if fieldRsvd0 w ≠ 0 ∨ fieldRsvd1 w ≠ 0 ∨ fieldSrc2 w ≠ 0 then 1
       else if (s.slot k).valid = false then 2
       else if fieldLen w ≠ (s.slot k).len.toNat then 3
       else if 4096 < fieldSrc1 w + n ∨ 4096 < fieldDst w + n then 4
       else 0)

/-- The errors of SETMOD in their order (R255 points 1 to 4), and what each leaves in the slot: ILLEGAL_CMD leaves it as it was,
every later error leaves it empty (R256). -/
def Obligations.SetmodErrorsInOrder : Prop :=
  ∀ (s : State) (w : Word) (rest : List HostEvent), s.writesCmd w rest → fieldOpc w = 0x01 →
    let k := fieldCtx w
    let n := s.memRead (fieldSrc1 w) (8 * fieldLen w)
    let code : BitVec 4 :=
      (if fieldRsvd0 w ≠ 0 ∨ fieldRsvd1 w ≠ 0 ∨ fieldDst w ≠ 0 ∨ fieldSrc2 w ≠ 0 then 1
       else if fieldLen w < 1 ∨ 12 < fieldLen w then 5
       else if 4096 < fieldSrc1 w + 8 * fieldLen w then 4
       else if n % 2 = 0 ∨ n < 2 ^ (64 * (fieldLen w - 1)) then 5
       else 0)
    ∃ t, step s = .next t ∧ t.err = code ∧
      (code = 1 → t.slot k = s.slot k) ∧ (code ≠ 0 → code ≠ 1 → t.slot k = Context.empty) ∧
      (∀ j : Slot, j ≠ k → t.slot j = s.slot j)

/-- R264: the errors of SETMODI in their order: decode (slot unchanged), limb count, bounds with the eight bytes behind the
modulus, the modulus, the host's constant. -/
def Obligations.SetmodiErrorsInOrder : Prop :=
  ∀ (s : State) (w : Word) (rest : List HostEvent), s.writesCmd w rest → fieldOpc w = 0x02 →
    let k := fieldCtx w
    let n := s.memRead (fieldSrc1 w) (8 * fieldLen w)
    let hinv := s.memRead (fieldSrc1 w + 8 * fieldLen w) 8
    let code : BitVec 4 :=
      (if fieldRsvd0 w ≠ 0 ∨ fieldRsvd1 w ≠ 0 ∨ fieldDst w ≠ 0 ∨ fieldSrc2 w ≠ 0 then 1
       else if fieldLen w < 1 ∨ 12 < fieldLen w then 5
       else if 4096 < fieldSrc1 w + 8 * fieldLen w + 8 then 4
       else if n % 2 = 0 ∨ n < 2 ^ (64 * (fieldLen w - 1)) then 5
       else if (n * hinv + 1) % 2 ^ 64 ≠ 0 then 5
       else 0)
    ∃ t, step s = .next t ∧ t.err = code ∧
      (code = 1 → t.slot k = s.slot k) ∧ (code ≠ 0 → code ≠ 1 → t.slot k = Context.empty) ∧
      (∀ j : Slot, j ≠ k → t.slot j = s.slot j)

/-- R153, R163: the errors of CMPGTE and CSEL in their order: decode, limb count, bounds; no value is refused. -/
def Obligations.CompareAndSelectErrorsInOrder : Prop :=
  ∀ (s : State) (w : Word) (rest : List HostEvent), s.writesCmd w rest →
    let n := 8 * fieldLen w
    (fieldOpc w = 0x20 → ∃ t, step s = .next t ∧ t.err =
      (if fieldRsvd0 w ≠ 0 ∨ fieldRsvd1 w ≠ 0 ∨ fieldCtx w ≠ 0 ∨ fieldDst w ≠ 0 then 1
       else if fieldLen w < 1 ∨ 12 < fieldLen w then 3
       else if 4096 < fieldSrc1 w + n ∨ 4096 < fieldSrc2 w + n then 4
       else 0)) ∧
    (fieldOpc w = 0x21 → ∃ t, step s = .next t ∧ t.err =
      (if fieldRsvd0 w ≠ 0 ∨ fieldRsvd1 w ≠ 0 ∨ fieldCtx w ≠ 0 then 1
       else if fieldLen w < 1 ∨ 12 < fieldLen w then 3
       else if 4096 < fieldSrc1 w + n ∨ 4096 < fieldSrc2 w + n ∨ 4096 < fieldDst w + n then 4
       else 0))

/-- R270: CLRCTX's only error is ILLEGAL_CMD, which changes no slot; otherwise ERR ← 0 and CTXV bit k ← 0. It touches no RAM. -/
def Obligations.ClrctxFailsOnlyInDecode : Prop :=
  ∀ (s : State) (w : Word) (rest : List HostEvent), s.writesCmd w rest → fieldOpc w = 0x03 →
    ∃ t, step s = .next t ∧ t.ram = s.ram ∧ t.ramDraw = s.ramDraw ∧
      (if fieldLen w ≠ 0 ∨ fieldDst w ≠ 0 ∨ fieldSrc1 w ≠ 0 ∨ fieldSrc2 w ≠ 0 ∨ fieldRsvd0 w ≠ 0 ∨ fieldRsvd1 w ≠ 0 then
        t.err = 1 ∧ t.ctx = s.ctx
       else t.err = 0 ∧ t.statusWord.getLsbD (16 + (fieldCtx w).val) = false)

/-- R302: what an error does. Whatever command word fails, with whatever code: ERR ← code, STICKY ← 1, no RAM byte written, GTE
unchanged, LASTCMD the failing word, an OKAY response, no slot written but that of a SETMOD or SETMODI that decoded. -/
def Obligations.FailedCommandChangesNothingElse : Prop :=
  ∀ (s t : State) (w : Word) (rest : List HostEvent), s.writesCmd w rest → step s = .next t → t.err ≠ 0 →
    (∃ c : ErrCode, c ≠ .ok ∧ t.err = c.code) ∧ t.sticky = true ∧
    t.ram = s.ram ∧ t.ramDraw = s.ramDraw ∧ (∀ a, t.byteAt a = s.byteAt a) ∧ t.gte = s.gte ∧
    (∀ (k : Slot) (i : Instr), decode w = .ok i → i.setsContext = some k → t.slot k = Context.empty) ∧
    (∀ k : Slot, (∀ i : Instr, decode w = .ok i → i.setsContext ≠ some k) → t.slot k = s.slot k) ∧
    t.lastCmd = w ∧ t.pending = rest ∧ t.responses = s.responses ++ [{ resp := .okay, rdata := 0 }]

/-- R309, R221: no command run in a state that meets the invariant ends with INTERNAL_INVARIANT. -/
def Obligations.InternalInvariantIsNeverReported : Prop :=
  ∀ (i : Instr) (s t : State), s.Inv → exec i s = .next t → t.err ≠ 7

/-- R308, with R37 and R38: where STATUS.ERR and STICKY can change. STICKY is set by a failing command and cleared only by a reset
or a 1 written to STATUS bit 8; ERR is written only by a reset and by commands. -/
def Obligations.StickyAndErrChangeOnlyAsStated : Prop :=
  ∀ s t : State, step s = .next t →
    t.sticky = (match s.pending with
      | [] => s.sticky
      | .reset :: _ => false
      | .request r :: _ =>
        if r = commandRequest r.wdata then s.sticky || decide (t.err ≠ 0)
        else if r = statusRequest r.wdata then s.sticky && !r.wdata.getLsbD 8
        else s.sticky) ∧
    (t.err = s.err ∨ (∃ rest, s.pending = .reset :: rest ∧ t.err = 0) ∨ (∃ w rest, s.writesCmd w rest))

/-! ### Frames -/

/-- R36: GTE is 0 after reset; a successful CMPGTE writes it with (a ≥ b); nothing else does, failed commands included; no command
but CSEL depends on it; the host reads it as STATUS[4]. -/
def Obligations.GteIsCmpgtesAndCselsAlone : Prop :=
  State.reset.gte = false ∧
  (∀ (len src1 src2 : Nat) (s t : State), exec (.cmpgte len src1 src2) s = .next t → t.err = 0 →
    t.gte = decide (s.memRead src2 (8 * len) ≤ s.memRead src1 (8 * len))) ∧
  (∀ (i : Instr) (s t : State), exec i s = .next t → (i.isCmpgte = false ∨ t.err ≠ 0) → t.gte = s.gte) ∧
  (∀ (i : Instr) (s t : State) (g : Bool), i.isCsel = false → exec i s = .next t →
    exec i { s with gte := g } = .next { t with gte := if i.isCmpgte = true ∧ t.err = 0 then t.gte else g }) ∧
  (∀ s : State, s.statusWord.getLsbD 4 = s.gte)

/-- R50: a slot changes only by a reset, or by a SETMOD, SETMODI or CLRCTX that names it in a write to CMD. -/
def Obligations.SlotsChangeOnlyByContextCommands : Prop :=
  ∀ (s t : State) (k : Slot), step s = .next t → t.slot k ≠ s.slot k →
    (∃ rest, s.pending = .reset :: rest) ∨
    (∃ w rest i, s.writesCmd w rest ∧ decode w = .ok i ∧ i.writtenSlot = some k)

/-- Frame of ADDMOD, SUBMOD, MULMONT, TOMONT, TONORM and CSEL, successful or not: every byte outside the 8·L bytes at DST, every
slot, GTE, LASTCMD and the bus are unchanged, and success leaves STICKY (R50, R87, R117, R182, R192, R232, R277, R284, R162). -/
def Obligations.FrameOfStoringCommands : Prop :=
  ∀ (i : Instr) (s t : State) (dst n : Nat), i.storedRange = some (dst, n) → exec i s = .next t →
    (∀ a, (a < dst ∨ dst + n ≤ a) → t.byteAt a = s.byteAt a) ∧
    t.ctx = s.ctx ∧ t.gte = s.gte ∧ t.lastCmd = s.lastCmd ∧ t.pending = s.pending ∧ t.responses = s.responses ∧
    t.ramDraw = s.ramDraw ∧ (t.err = 0 → t.sticky = s.sticky)

/-- Frame of SETMOD, SETMODI, CLRCTX and CMPGTE, successful or not: every byte of the RAM, every slot but the one a context command
names, LASTCMD and the bus are unchanged; GTE too but for a successful CMPGTE; and success leaves STICKY
(R50, R78, R117, R152, R254, R263, R270). -/
def Obligations.FrameOfNonStoringCommands : Prop :=
  ∀ (i : Instr) (s t : State), i.storedRange = none → exec i s = .next t →
    (∀ a, t.byteAt a = s.byteAt a) ∧ t.ram = s.ram ∧ t.ramDraw = s.ramDraw ∧
    (∀ k : Slot, i.writtenSlot ≠ some k → t.slot k = s.slot k) ∧
    (i.isCmpgte = false → t.gte = s.gte) ∧ t.lastCmd = s.lastCmd ∧ t.pending = s.pending ∧
    t.responses = s.responses ∧ (t.err = 0 → t.sticky = s.sticky)

/-- R81: a second execution of a pure command whose destination overlaps none of its sources gives the same result. -/
def Obligations.RepeatedPureCommandChangesNothing : Prop :=
  ∀ (len : Nat) (k : Slot) (dst src1 src2 : Nat) (s t : State),
    (dst + 8 * len ≤ src1 ∨ src1 + 8 * len ≤ dst) → (dst + 8 * len ≤ src2 ∨ src2 + 8 * len ≤ dst) →
    ∀ i ∈ [Instr.addmod len k dst src1 src2, .submod len k dst src1 src2, .mulmont len k dst src1 src2,
           .tomont len k dst src1, .tonorm len k dst src1, .csel len dst src1 src2],
      exec i s = .next t → exec i t = .next t

/-! ### The invariant -/

/-- The state after reset meets the invariant (R48, R49, R55). -/
def Obligations.ResetMeetsTheInvariant : Prop := State.reset.Inv

/-- R48, R49, I14: every step keeps the invariant: valid slots are sound, invalid ones are empty, ERR is at most 7, and the memory
is in its canonical form. It speaks of every state that meets it, with any events still to come. -/
def Obligations.EveryStepKeepsTheInvariant : Prop :=
  ∀ s t : State, s.Inv → step s = .next t → t.Inv

/-! ### Datapath units -/

/-- R140, R141: the carry and the sum, the borrow and the difference, are exact. -/
def Obligations.WordAdderAndSubtractorAreExact : Prop :=
  ∀ (x y : Word) (c : Bool),
    (adc x y c).2.toNat = (x.toNat + y.toNat + c.toNat) % 2 ^ 64 ∧
    (adc x y c).1.toNat = (x.toNat + y.toNat + c.toNat) / 2 ^ 64 ∧
    ((sbb x y c).1 = true ↔ (x.toNat : Int) - y.toNat - c.toNat < 0) ∧
    ((sbb x y c).2.toNat : Int) =
      (if (x.toNat : Int) - y.toNat - c.toNat < 0 then (x.toNat : Int) - y.toNat - c.toNat + 2 ^ 64
       else (x.toNat : Int) - y.toNat - c.toNat)

/-- R142: `mac` loses no bit: v is at most 2^128 − 1, hi = v div 2^64, lo = v mod 2^64. -/
def Obligations.MacLosesNoBit : Prop :=
  ∀ t a b c : Word,
    t.toNat + a.toNat * b.toNat + c.toNat ≤ 2 ^ 128 - 1 ∧
    (mac t a b c).1.toNat = (t.toNat + a.toNat * b.toNat + c.toNat) / 2 ^ 64 ∧
    (mac t a b c).2.toNat = (t.toNat + a.toNat * b.toNat + c.toNat) % 2 ^ 64

/-- R149: the laws of AddL, SubL and GteL for limb arrays of one length. -/
def Obligations.LimbUnitsComputeIntegers : Prop :=
  ∀ a b : Limbs, a.length = b.length →
    (valOf a + valOf b = (addL a b).1.toNat * 2 ^ (64 * a.length) + valOf (addL a b).2 ∧
      (addL a b).2.length = a.length) ∧
    ((valOf a : Int) - valOf b = valOf (subL a b).2 - (subL a b).1.toNat * 2 ^ (64 * a.length) ∧
      ((subL a b).1 = true ↔ valOf a < valOf b) ∧ (subL a b).2.length = a.length) ∧
    (gteL a b = true ↔ valOf b ≤ valOf a)

/-- R221: the law of the CIOS unit. With N odd and N·ninv ≡ −1 (mod 2^64) and X·Y < N·R, the value before the correction is
(X·Y + M·N)/R for the one M below R that makes it whole, it is below 2N, and the unit returns X·Y·R⁻¹ mod N. -/
def Obligations.CiosUnitComputesTheMontgomeryProduct : Prop :=
  ∀ (x y n : Limbs) (ninv : Word), x.length = n.length → y.length = n.length → 1 ≤ n.length →
    (valOf n * ninv.toNat + 1) % 2 ^ 64 = 0 → valOf x * valOf y < valOf n * 2 ^ (64 * n.length) →
    let R := 2 ^ (64 * n.length)
    let T := (ciosLoop x y n ninv).val
    (∃ M, M < R ∧ T * R = valOf x * valOf y + M * valOf n ∧
      ∀ M', M' < R → (valOf x * valOf y + M' * valOf n) % R = 0 → M' = M) ∧
    T < 2 * valOf n ∧
    ∃ t, cios x y n ninv = .ok t ∧ t.length = n.length ∧ valOf t < valOf n ∧
      (valOf t * R) % valOf n = (valOf x * valOf y) % valOf n

/-- R213 to R217: one CIOS iteration on an accumulator below N + X. Step 1 adds X·y[i], step 3 makes T[0] zero and adds m·N with no
word overflowing, step 4 divides by 2^64 exactly, T[L+1] is at most 1 before it and 0 after it, and the result is below N + X. -/
def Obligations.CiosIterationIsExact : Prop :=
  ∀ (t : Acc) (x n : Limbs) (ninv yi : Word), x.length = n.length → t.lo.length = n.length → 1 ≤ n.length →
    (valOf n * ninv.toNat + 1) % 2 ^ 64 = 0 → t.tL1 = 0 → t.val < valOf n + valOf x →
    let t1 := ciosStep1 t x yi
    let m := ciosStep2 t1 ninv
    let t3 := ciosStep3 t1 n m
    let t4 := ciosStep4 t3
    t1.val = t.val + valOf x * yi.toNat ∧
    m.toNat = (ninv.toNat * (t1.lo.headD 0).toNat) % 2 ^ 64 ∧
    t3.val = t1.val + m.toNat * valOf n ∧ t3.lo.headD 0 = 0 ∧ t3.tL1.toNat ≤ 1 ∧
    t4.val * 2 ^ 64 = t3.val ∧ t4.tL1 = 0 ∧ t4.val < valOf n + valOf x ∧ t4 = ciosRound x n ninv t yi

/-- R252: for an odd n0, ModInv(n0) is the unique word v with (n0·v + 1) mod 2^64 = 0. -/
def Obligations.ModInvIsTheUniqueConstant : Prop :=
  ∀ n0 : Word, n0.toNat % 2 = 1 →
    (n0.toNat * (modInv n0).toNat + 1) % 2 ^ 64 = 0 ∧
    ∀ v : Word, (n0.toNat * v.toNat + 1) % 2 ^ 64 = 0 → v = modInv n0

/-- R13: the conversions between integers and limb arrays lose nothing, and limb i holds bits [64i+63:64i]. -/
def Obligations.LimbConversionsLoseNothing : Prop :=
  (∀ (v len : Nat), v < 2 ^ (64 * len) → valOf (limbsOf v len) = v) ∧
  (∀ a : Limbs, limbsOf (valOf a) a.length = a) ∧
  (∀ (v len i : Nat), i < len → (limbsOf v len)[i]? = some (BitVec.ofNat 64 (v / 2 ^ (64 * i)))) ∧
  (∀ a : Limbs, valOf a < 2 ^ (64 * a.length))

/-- R14, R34, R70: a buffer reads back the value written to it, and limb j of a buffer is bits [64j+63:64j] of its value. -/
def Obligations.BuffersHoldLittleEndianValues : Prop :=
  (∀ (s : State) (off n v : Nat), (s.memWrite off n v).memRead off n = v % 256 ^ n) ∧
  (∀ (s : State) (off len j : Nat), j < len →
    s.memRead (off + 8 * j) 8 = s.memRead off (8 * len) / 2 ^ (64 * j) % 2 ^ 64) ∧
  (∀ (s : State) (off n b : Nat), b < n →
    s.memRead off n / 256 ^ b % 256 = (s.byteAt (off + b)).toNat)

/-! ### The host port -/

/-- R76, R83: a misaligned access, a register access not of size 8 and an access to a reserved address get ERROR with rdata 0 and
change nothing; every other access is answered OKAY, a write with rdata 0. -/
def Obligations.BadAccessesGetErrorAndChangeNothing : Prop :=
  ∀ (s : State) (r : Request) (rest : List HostEvent), s.pending = .request r :: rest →
    let a := r.addr.toNat
    let bad := a % r.size.bytes ≠ 0 ∨ (0x1000 ≤ a ∧ r.size ≠ .eight) ∨
      (0x1018 ≤ a ∧ a < 0x1100) ∨ (0x1100 ≤ a ∧ a < 0x1500 ∧ 0xD0 ≤ a % 0x100) ∨ 0x1500 ≤ a
    (bad → step s = .next { s with pending := rest, responses := s.responses ++ [{ resp := .error, rdata := 0 }] }) ∧
    (¬ bad → ∃ t d, step s = .next t ∧ t.responses = s.responses ++ [{ resp := .okay, rdata := d }] ∧
      (r.kind = .write → d = 0))

/-- R80: no read has a side effect: a READ request changes nothing but the model's own lists of events and responses. -/
def Obligations.ReadsHaveNoSideEffect : Prop :=
  ∀ (s : State) (r : Request) (rest : List HostEvent), s.pending = .request r :: rest → r.kind = .read →
    ∃ answer : Response, step s = .next { s with pending := rest, responses := s.responses ++ [answer] }

/-- R71: host accesses to the operand RAM are little-endian: a read returns byte b on data bits [8b+7:8b] and 0 above; a write
stores data bits [8b+7:8b] to byte b and changes nothing else; an 8-byte write writes one limb. -/
def Obligations.HostAccessesToRamAreLittleEndian : Prop :=
  ∀ (s : State) (r : Request) (rest : List HostEvent), s.pending = .request r :: rest →
    r.addr.toNat < 0x1000 → r.addr.toNat % r.size.bytes = 0 →
    (r.kind = .read → ∃ d : Word,
      step s = .next { s with pending := rest, responses := s.responses ++ [{ resp := .okay, rdata := d }] } ∧
      (∀ b, b < r.size.bytes → d.extractLsb' (8 * b) 8 = s.byteAt (r.addr.toNat + b)) ∧
      d.toNat < 256 ^ r.size.bytes) ∧
    (r.kind = .write → ∃ t, step s = .next t ∧
      (∀ b, b < r.size.bytes → t.byteAt (r.addr.toNat + b) = r.wdata.extractLsb' (8 * b) 8) ∧
      (∀ a, (a < r.addr.toNat ∨ r.addr.toNat + r.size.bytes ≤ a) → t.byteAt a = s.byteAt a) ∧
      (r.size = .eight → t.memRead r.addr.toNat 8 = r.wdata.toNat) ∧
      t = { s with
        ram := t.ram, pending := rest, responses := s.responses ++ [{ resp := .okay, rdata := 0 }] })

/-- R38, R41, R84: an 8-byte write to STATUS is answered OKAY and changes STICKY only: a 1 in bit 8 clears it. -/
def Obligations.StatusWriteClearsStickyOnly : Prop :=
  ∀ (s : State) (wdata : Word) (rest : List HostEvent), s.pending = .request (statusRequest wdata) :: rest →
    step s = .next { s with
      sticky := if wdata.getLsbD 8 then false else s.sticky
      pending := rest, responses := s.responses ++ [{ resp := .okay, rdata := 0 }] }

/-- R41: an 8-byte read of STATUS returns ERR in [3:0], GTE in [4], STICKY in [8], CTXV in [19:16] and 0 elsewhere. -/
def Obligations.StatusReadShowsEveryField : Prop :=
  ∀ (s : State) (rest : List HostEvent), s.pending = .request (read64 0x1008) :: rest →
    ∃ d : Word,
      step s = .next { s with pending := rest, responses := s.responses ++ [{ resp := .okay, rdata := d }] } ∧
      d.extractLsb' 0 4 = s.err ∧ d.getLsbD 4 = s.gte ∧ d.extractLsb' 5 3 = 0 ∧ d.getLsbD 8 = s.sticky ∧
      d.extractLsb' 9 7 = 0 ∧ (∀ k : Slot, d.getLsbD (16 + k.val) = (s.slot k).valid) ∧ d.extractLsb' 20 44 = 0

/-- R42: PARAMS always reads 0x000000011000040C, whose fields are 12, 4, 4096, version 1 and 0, and ignores writes. -/
def Obligations.ParamsIsAConstant : Prop :=
  ∀ (s : State) (rest : List HostEvent) (wdata : Word),
    (s.pending = .request (read64 0x1010) :: rest →
      step s = .next { s with
        pending := rest, responses := s.responses ++ [{ resp := .okay, rdata := 0x000000011000040C }] }) ∧
    (s.pending = .request (write64 0x1010 wdata) :: rest →
      step s = .next { s with pending := rest, responses := s.responses ++ [{ resp := .okay, rdata := 0 }] })

/-- R43, R44, R45, R46, R84: the context windows read CTXCFG, MODINV, MOD[j] and R2[j] of their slot, and ignore writes. -/
def Obligations.ContextWindowsShowTheSlots : Prop :=
  ∀ (s : State) (rest : List HostEvent) (k : Slot) (j : Fin 12) (wdata : Word),
    let base := 0x1100 + 0x100 * k.val
    let reads := fun (addr : Nat) (d : Word) => s.pending = .request (read64 addr) :: rest →
      step s = .next { s with pending := rest, responses := s.responses ++ [{ resp := .okay, rdata := d }] }
    (∃ cfg : Word, reads base cfg ∧ cfg.getLsbD 0 = (s.slot k).valid ∧ cfg.extractLsb' 1 7 = 0 ∧
      cfg.extractLsb' 8 4 = (s.slot k).len ∧ cfg.extractLsb' 12 52 = 0) ∧
    reads (base + 0x08) (s.slot k).modInv ∧
    reads (base + 0x10 + 8 * j.val) (s.slot k).mod[j] ∧
    reads (base + 0x70 + 8 * j.val) (s.slot k).r2[j] ∧
    (∀ o, o < 26 → s.pending = .request (write64 (base + 8 * o) wdata) :: rest →
      step s = .next { s with pending := rest, responses := s.responses ++ [{ resp := .okay, rdata := 0 }] })

/-- R40: LASTCMD is 0 after reset; an 8-byte write of w to CMD sets it, legal or not; the read that follows returns w and changes
nothing else. -/
def Obligations.CmdReadsBackTheLastWord : Prop :=
  State.reset.lastCmd = 0 ∧
  ∀ (s : State) (w : Word) (rest : List HostEvent), s.writesCmd w (.request (read64 0x1000) :: rest) →
    ∃ t, step s = .next t ∧ t.lastCmd = w ∧
      step t = .next { t with
        pending := rest
        responses := s.responses ++ [{ resp := .okay, rdata := 0 }, { resp := .okay, rdata := w }] }

/-- R351: a host read of STATUS right after a CMD write gives that command's code. -/
def Obligations.StatusReadGivesTheLastCode : Prop :=
  ∀ (s : State) (w : Word) (rest : List HostEvent), s.writesCmd w (.request (read64 0x1008) :: rest) →
    ∃ t u d, step s = .next t ∧ step t = .next u ∧
      u.responses = s.responses ++ [{ resp := .okay, rdata := 0 }, { resp := .okay, rdata := d }] ∧
      d.extractLsb' 0 4 = t.err ∧ u.err = t.err

/-- R340, R341: after a pulse of the reset input, and in `State.reset`, every slot is invalid and all zero, ERR, GTE and STICKY are
0 so STATUS reads 0, and LASTCMD is 0. Nothing is said of a RAM byte: it is UNSPECIFIED. -/
def Obligations.ResetClearsEveryRegister : Prop :=
  ∀ (s : State) (rest : List HostEvent), s.pending = .reset :: rest →
    ∃ t, step s = .next t ∧ t.pending = rest ∧ t.responses = s.responses ∧
      ∀ u ∈ [t, State.reset], (∀ k : Slot, u.slot k = Context.empty) ∧ u.err = 0 ∧ u.gte = false ∧ u.sticky = false ∧
        u.statusWord = 0 ∧ u.lastCmd = 0

/-- The model's choice for R317 (log 7): with no event to come the block is idle, and a step changes nothing. -/
def Obligations.IdleStepChangesNothing : Prop :=
  ∀ s : State, s.pending = [] → step s = .next s

/-- R360, R363: every event is served and every command terminates: as many steps as there are events empty the list, and each
request has had its response. That EACH request has had one rests on the model's choice, log 5 (DESIGN CHOICE, unsafe for this
clause): reset falls between transactions only. On the chip a CMD write that a reset cuts off may get no response (R342). -/
def Obligations.EveryEventIsServed : Prop :=
  ∀ s : State, ∃ t, Host.Core.run Sys2Proof.core s.pending.length s = .next t ∧ t.pending = [] ∧
    t.responses.length = s.responses.length + (s.pending.filter (fun e => decide (e ≠ HostEvent.reset))).length

/-- R363: two states show the same outcome exactly when they agree on the responses, on EVERY byte of the RAM, written since reset
or not, on the context slots, on the fields of STATUS and on LASTCMD. -/
def Obligations.ObservationShowsTheWholeFinalState : Prop :=
  ∀ s t : State, s.observe = t.observe ↔
    s.responses = t.responses ∧ (∀ a, a < 4096 → s.byteAt a = t.byteAt a) ∧ (∀ k : Slot, s.slot k = t.slot k) ∧
    s.err = t.err ∧ s.gte = t.gte ∧ s.sticky = t.sticky ∧ s.lastCmd = t.lastCmd

/-- R80, R95: what a read does and is answered depends on its address and size alone: with any other write data the step is the
same. So the statements about `read64`, whose write data are the model's choice (log 18), hold of the read with any. -/
def Obligations.ReadsIgnoreTheirWriteData : Prop :=
  ∀ (s : State) (r : Request) (d : Word) (rest : List HostEvent), s.pending = .request r :: rest → r.kind = .read →
    step { s with pending := .request { r with wdata := d } :: rest } = step s
end

