-- ==== Sys2Proof/Laws/State.lean ====
section
/-! SUPPORT. What each update of the state does to each field: one lemma per field per update, true by unfolding once. -/

namespace Sys2Proof.Machine

/-! ### setByte -/

@[simp] theorem State.setByte_ram (s : State) (off : Nat) (b : Byte) : (s.setByte off b).ram = Memory.store s.ram off b := rfl
@[simp] theorem State.setByte_ctx (s : State) (off : Nat) (b : Byte) : (s.setByte off b).ctx = s.ctx := rfl
@[simp] theorem State.setByte_err (s : State) (off : Nat) (b : Byte) : (s.setByte off b).err = s.err := rfl
@[simp] theorem State.setByte_gte (s : State) (off : Nat) (b : Byte) : (s.setByte off b).gte = s.gte := rfl
@[simp] theorem State.setByte_sticky (s : State) (off : Nat) (b : Byte) : (s.setByte off b).sticky = s.sticky := rfl
@[simp] theorem State.setByte_lastCmd (s : State) (off : Nat) (b : Byte) : (s.setByte off b).lastCmd = s.lastCmd := rfl
@[simp] theorem State.setByte_pending (s : State) (off : Nat) (b : Byte) : (s.setByte off b).pending = s.pending := rfl
@[simp] theorem State.setByte_responses (s : State) (off : Nat) (b : Byte) : (s.setByte off b).responses = s.responses := rfl
@[simp] theorem State.setByte_ramDraw (s : State) (off : Nat) (b : Byte) : (s.setByte off b).ramDraw = s.ramDraw := rfl

/-! ### setSlot -/

@[simp] theorem State.setSlot_ram (s : State) (k : Slot) (c : Context) : (s.setSlot k c).ram = s.ram := rfl
@[simp] theorem State.setSlot_ctx (s : State) (k : Slot) (c : Context) : (s.setSlot k c).ctx = s.ctx.set k c := rfl
@[simp] theorem State.setSlot_err (s : State) (k : Slot) (c : Context) : (s.setSlot k c).err = s.err := rfl
@[simp] theorem State.setSlot_gte (s : State) (k : Slot) (c : Context) : (s.setSlot k c).gte = s.gte := rfl
@[simp] theorem State.setSlot_sticky (s : State) (k : Slot) (c : Context) : (s.setSlot k c).sticky = s.sticky := rfl
@[simp] theorem State.setSlot_lastCmd (s : State) (k : Slot) (c : Context) : (s.setSlot k c).lastCmd = s.lastCmd := rfl
@[simp] theorem State.setSlot_pending (s : State) (k : Slot) (c : Context) : (s.setSlot k c).pending = s.pending := rfl
@[simp] theorem State.setSlot_responses (s : State) (k : Slot) (c : Context) : (s.setSlot k c).responses = s.responses := rfl
@[simp] theorem State.setSlot_ramDraw (s : State) (k : Slot) (c : Context) : (s.setSlot k c).ramDraw = s.ramDraw := rfl

/-! ### clearSlot -/

@[simp] theorem State.clearSlot_ram (s : State) (k : Slot) : (s.clearSlot k).ram = s.ram := rfl
@[simp] theorem State.clearSlot_ctx (s : State) (k : Slot) : (s.clearSlot k).ctx = s.ctx.set k Context.empty := rfl
@[simp] theorem State.clearSlot_err (s : State) (k : Slot) : (s.clearSlot k).err = s.err := rfl
@[simp] theorem State.clearSlot_gte (s : State) (k : Slot) : (s.clearSlot k).gte = s.gte := rfl
@[simp] theorem State.clearSlot_sticky (s : State) (k : Slot) : (s.clearSlot k).sticky = s.sticky := rfl
@[simp] theorem State.clearSlot_lastCmd (s : State) (k : Slot) : (s.clearSlot k).lastCmd = s.lastCmd := rfl
@[simp] theorem State.clearSlot_pending (s : State) (k : Slot) : (s.clearSlot k).pending = s.pending := rfl
@[simp] theorem State.clearSlot_responses (s : State) (k : Slot) : (s.clearSlot k).responses = s.responses := rfl
@[simp] theorem State.clearSlot_ramDraw (s : State) (k : Slot) : (s.clearSlot k).ramDraw = s.ramDraw := rfl

/-! ### succeed -/

@[simp] theorem State.succeed_ram (s : State) : (s.succeed).ram = s.ram := rfl
@[simp] theorem State.succeed_ctx (s : State) : (s.succeed).ctx = s.ctx := rfl
@[simp] theorem State.succeed_err (s : State) : (s.succeed).err = 0 := rfl
@[simp] theorem State.succeed_gte (s : State) : (s.succeed).gte = s.gte := rfl
@[simp] theorem State.succeed_sticky (s : State) : (s.succeed).sticky = s.sticky := rfl
@[simp] theorem State.succeed_lastCmd (s : State) : (s.succeed).lastCmd = s.lastCmd := rfl
@[simp] theorem State.succeed_pending (s : State) : (s.succeed).pending = s.pending := rfl
@[simp] theorem State.succeed_responses (s : State) : (s.succeed).responses = s.responses := rfl
@[simp] theorem State.succeed_ramDraw (s : State) : (s.succeed).ramDraw = s.ramDraw := rfl

/-! ### raise -/

@[simp] theorem State.raise_ram (s : State) (c : ErrCode) : (s.raise c).ram = s.ram := rfl
@[simp] theorem State.raise_ctx (s : State) (c : ErrCode) : (s.raise c).ctx = s.ctx := rfl
@[simp] theorem State.raise_err (s : State) (c : ErrCode) : (s.raise c).err = c.code := rfl
@[simp] theorem State.raise_gte (s : State) (c : ErrCode) : (s.raise c).gte = s.gte := rfl
@[simp] theorem State.raise_sticky (s : State) (c : ErrCode) : (s.raise c).sticky = true := rfl
@[simp] theorem State.raise_lastCmd (s : State) (c : ErrCode) : (s.raise c).lastCmd = s.lastCmd := rfl
@[simp] theorem State.raise_pending (s : State) (c : ErrCode) : (s.raise c).pending = s.pending := rfl
@[simp] theorem State.raise_responses (s : State) (c : ErrCode) : (s.raise c).responses = s.responses := rfl
@[simp] theorem State.raise_ramDraw (s : State) (c : ErrCode) : (s.raise c).ramDraw = s.ramDraw := rfl

/-! ### respond -/

@[simp] theorem State.respond_ram (s : State) (r : Resp) (d : Word) : (s.respond r d).ram = s.ram := rfl
@[simp] theorem State.respond_ctx (s : State) (r : Resp) (d : Word) : (s.respond r d).ctx = s.ctx := rfl
@[simp] theorem State.respond_err (s : State) (r : Resp) (d : Word) : (s.respond r d).err = s.err := rfl
@[simp] theorem State.respond_gte (s : State) (r : Resp) (d : Word) : (s.respond r d).gte = s.gte := rfl
@[simp] theorem State.respond_sticky (s : State) (r : Resp) (d : Word) : (s.respond r d).sticky = s.sticky := rfl
@[simp] theorem State.respond_lastCmd (s : State) (r : Resp) (d : Word) : (s.respond r d).lastCmd = s.lastCmd := rfl
@[simp] theorem State.respond_pending (s : State) (r : Resp) (d : Word) : (s.respond r d).pending = s.pending := rfl
@[simp] theorem State.respond_responses (s : State) (r : Resp) (d : Word) : (s.respond r d).responses = s.responses ++ [{ resp := r, rdata := d }] := rfl
@[simp] theorem State.respond_ramDraw (s : State) (r : Resp) (d : Word) : (s.respond r d).ramDraw = s.ramDraw := rfl

/-! ### setGte -/

@[simp] theorem State.setGte_ram (s : State) (g : Bool) : (s.setGte g).ram = s.ram := rfl
@[simp] theorem State.setGte_ctx (s : State) (g : Bool) : (s.setGte g).ctx = s.ctx := rfl
@[simp] theorem State.setGte_err (s : State) (g : Bool) : (s.setGte g).err = s.err := rfl
@[simp] theorem State.setGte_gte (s : State) (g : Bool) : (s.setGte g).gte = g := rfl
@[simp] theorem State.setGte_sticky (s : State) (g : Bool) : (s.setGte g).sticky = s.sticky := rfl
@[simp] theorem State.setGte_lastCmd (s : State) (g : Bool) : (s.setGte g).lastCmd = s.lastCmd := rfl
@[simp] theorem State.setGte_pending (s : State) (g : Bool) : (s.setGte g).pending = s.pending := rfl
@[simp] theorem State.setGte_responses (s : State) (g : Bool) : (s.setGte g).responses = s.responses := rfl
@[simp] theorem State.setGte_ramDraw (s : State) (g : Bool) : (s.setGte g).ramDraw = s.ramDraw := rfl

/-! ### writeStatus -/

@[simp] theorem State.writeStatus_ram (s : State) (w : Word) : (s.writeStatus w).ram = s.ram := rfl
@[simp] theorem State.writeStatus_ctx (s : State) (w : Word) : (s.writeStatus w).ctx = s.ctx := rfl
@[simp] theorem State.writeStatus_err (s : State) (w : Word) : (s.writeStatus w).err = s.err := rfl
@[simp] theorem State.writeStatus_gte (s : State) (w : Word) : (s.writeStatus w).gte = s.gte := rfl
@[simp] theorem State.writeStatus_sticky (s : State) (w : Word) : (s.writeStatus w).sticky = (s.sticky && !w.getLsbD 8) := rfl
@[simp] theorem State.writeStatus_lastCmd (s : State) (w : Word) : (s.writeStatus w).lastCmd = s.lastCmd := rfl
@[simp] theorem State.writeStatus_pending (s : State) (w : Word) : (s.writeStatus w).pending = s.pending := rfl
@[simp] theorem State.writeStatus_responses (s : State) (w : Word) : (s.writeStatus w).responses = s.responses := rfl
@[simp] theorem State.writeStatus_ramDraw (s : State) (w : Word) : (s.writeStatus w).ramDraw = s.ramDraw := rfl

/-! ### applyReset -/

@[simp] theorem State.applyReset_ram (s : State) : (s.applyReset).ram = [] := rfl
@[simp] theorem State.applyReset_ctx (s : State) : (s.applyReset).ctx = Vector.replicate 4 Context.empty := rfl
@[simp] theorem State.applyReset_err (s : State) : (s.applyReset).err = 0 := rfl
@[simp] theorem State.applyReset_gte (s : State) : (s.applyReset).gte = false := rfl
@[simp] theorem State.applyReset_sticky (s : State) : (s.applyReset).sticky = false := rfl
@[simp] theorem State.applyReset_lastCmd (s : State) : (s.applyReset).lastCmd = 0 := rfl
@[simp] theorem State.applyReset_pending (s : State) : (s.applyReset).pending = s.pending := rfl
@[simp] theorem State.applyReset_responses (s : State) : (s.applyReset).responses = s.responses := rfl
@[simp] theorem State.applyReset_ramDraw (s : State) : (s.applyReset).ramDraw = Config.nextDraw s.ramDraw s.ram := rfl

/-! ### Slots under the updates -/

@[simp] theorem State.slot_setSlot_self (s : State) (k : Slot) (c : Context) : (s.setSlot k c).slot k = c := by
  simp [State.slot]

theorem State.slot_setSlot_other (s : State) {k j : Slot} (c : Context) (h : k ≠ j) :
    (s.setSlot k c).slot j = s.slot j := by
  have : k.val ≠ j.val := fun e => h (Fin.ext e)
  simp [State.slot, this]

@[simp] theorem State.slot_clearSlot_self (s : State) (k : Slot) : (s.clearSlot k).slot k = Context.empty :=
  State.slot_setSlot_self s k _

theorem State.slot_clearSlot_other (s : State) {k j : Slot} (h : k ≠ j) : (s.clearSlot k).slot j = s.slot j :=
  State.slot_setSlot_other s _ h

/-- A slot depends on the slots only. -/
theorem State.slot_congr {s t : State} (h : t.ctx = s.ctx) (k : Slot) : t.slot k = s.slot k := by
  simp [State.slot, h]

@[simp] theorem State.slot_applyReset (s : State) (k : Slot) : s.applyReset.slot k = Context.empty := by
  simp [State.slot]

@[simp] theorem State.slot_reset (k : Slot) : State.reset.slot k = Context.empty := by
  simp [State.slot, State.reset]

/-! ### The completion codes -/

/-- Only OK has the code 0 (R300). -/
theorem ErrCode.code_eq_zero_iff (c : ErrCode) : c.code = 0 ↔ c = .ok := by cases c <;> decide

/-- No completion code is above 7 (R300). -/
theorem ErrCode.code_le_seven (c : ErrCode) : c.code.toNat ≤ 7 := by cases c <;> decide

/-! ### observe -/

@[simp] theorem State.observe_responses (s : State) : s.observe.responses = s.responses := rfl
@[simp] theorem State.observe_ram (s : State) : s.observe.ram = s.ramBytes := rfl
@[simp] theorem State.observe_ctx (s : State) : s.observe.ctx = s.ctx := rfl
@[simp] theorem State.observe_status (s : State) : s.observe.status = s.statusWord := rfl
@[simp] theorem State.observe_lastCmd (s : State) : s.observe.lastCmd = s.lastCmd := rfl

end Sys2Proof.Machine
end

