-- ==== Sys2Proof/Laws/Memory.lean ====
section
/-! SUPPORT. The laws of the operand RAM: a read after a write, what a write leaves alone, and that every write keeps the
canonical form. -/

namespace Sys2Proof.Machine

/-! ### The list -/

theorem Memory.load?_store_self (m : Memory) (off : Nat) (b : Byte) : Memory.load? (Memory.store m off b) off = some b := by
  induction m with
  | nil => simp [Memory.store, Memory.load?]
  | cons c rest ih =>
    obtain ⟨a, v⟩ := c
    simp only [Memory.store]
    split
    · simp [Memory.load?]
    · split
      · simp [Memory.load?]
      · rename_i h1 h2
        simp [Memory.load?, show a ≠ off by omega, ih]

theorem Memory.load?_store_other (m : Memory) {off a : Nat} (b : Byte) (h : a ≠ off) :
    Memory.load? (Memory.store m off b) a = Memory.load? m a := by
  induction m with
  | nil => simp [Memory.store, Memory.load?, Ne.symm h]
  | cons c rest ih =>
    obtain ⟨x, v⟩ := c
    simp only [Memory.store]
    split
    · simp [Memory.load?, Ne.symm h]
    · split
      · rename_i h1 h2
        subst h2
        simp [Memory.load?, Ne.symm h]
      · simp [Memory.load?, ih]

theorem Memory.risesAbove_store {m : Memory} {low off : Nat} (b : Byte) (hm : Memory.risesAbove low m = true)
    (h : low < off) : Memory.risesAbove low (Memory.store m off b) = true := by
  induction m generalizing low with
  | nil => simp [Memory.store, Memory.risesAbove, h]
  | cons c rest ih =>
    obtain ⟨a, v⟩ := c
    simp only [Memory.risesAbove, Bool.and_eq_true, decide_eq_true_eq] at hm
    simp only [Memory.store]
    split
    · rename_i h1
      simp [Memory.risesAbove, h, h1, hm.2]
    · split
      · rename_i h1 h2
        subst h2
        simp [Memory.risesAbove, h, hm.2]
      · rename_i h1 h2
        simp [Memory.risesAbove, hm.1, ih hm.2 (by omega)]

/-- The empty memory, which is the memory after reset, is canonical. -/
theorem Memory.wf_nil : Memory.wf [] = true := rfl

theorem Memory.rises_store {m : Memory} {off : Nat} (b : Byte) (hm : Memory.rises m = true) :
    Memory.rises (Memory.store m off b) = true := by
  cases m with
  | nil => rfl
  | cons c rest =>
    obtain ⟨a, v⟩ := c
    simp only [Memory.rises] at hm
    by_cases h1 : off < a
    · simp [Memory.store, h1, Memory.rises, Memory.risesAbove, hm]
    · by_cases h2 : off = a
      · subst h2
        simpa [Memory.store, Memory.rises] using hm
      · simpa [Memory.store, h1, h2, Memory.rises] using Memory.risesAbove_store b hm (by omega)

theorem Memory.inside_store {m : Memory} {off : Nat} (b : Byte) (hm : Memory.inside m = true)
    (h : off < Config.opramBytes) : Memory.inside (Memory.store m off b) = true := by
  induction m with
  | nil => simpa [Memory.store, Memory.inside] using h
  | cons c rest ih =>
    obtain ⟨a, v⟩ := c
    simp only [Memory.inside, List.all_cons, Bool.and_eq_true, decide_eq_true_eq] at hm ih ⊢
    simp only [Memory.store]
    split
    · simpa [h] using hm
    · split
      · simpa [h] using hm.2
      · simpa using ⟨by simpa using hm.1, by simpa using ih hm.2⟩

/-- Writing a byte inside the operand RAM keeps the canonical form. -/
theorem Memory.wf_store {m : Memory} {off : Nat} (b : Byte) (hm : Memory.wf m = true) (h : off < Config.opramBytes) :
    Memory.wf (Memory.store m off b) = true := by
  simp only [Memory.wf, Bool.and_eq_true] at hm ⊢
  exact ⟨Memory.rises_store b hm.1, Memory.inside_store b hm.2 h⟩

/-! ### Bytes of the state -/

@[simp] theorem State.byteAt_setByte_self (s : State) (off : Nat) (b : Byte) : (s.setByte off b).byteAt off = b := by
  simp [State.byteAt, Memory.load?_store_self]

theorem State.byteAt_setByte_other (s : State) {off a : Nat} (b : Byte) (h : a ≠ off) :
    (s.setByte off b).byteAt a = s.byteAt a := by
  simp [State.byteAt, Memory.load?_store_other _ _ h]

/-- A byte depends on the listed bytes and the draw only. -/
theorem State.byteAt_congr {s t : State} (hr : t.ram = s.ram) (hd : t.ramDraw = s.ramDraw) (off : Nat) :
    t.byteAt off = s.byteAt off := by
  simp [State.byteAt, hr, hd]

/-! ### The RAM as the outside sees it -/

@[simp] theorem State.ramBytes_getElem (s : State) (off : Nat) (h : off < Config.opramBytes) :
    s.ramBytes[off] = s.byteAt off := by simp [State.ramBytes]

/-- Two states show the same RAM exactly when every byte of it reads the same. -/
theorem State.ramBytes_eq_iff {s t : State} :
    s.ramBytes = t.ramBytes ↔ ∀ off, off < Config.opramBytes → s.byteAt off = t.byteAt off := by
  constructor
  · intro h off hoff
    rw [← s.ramBytes_getElem off hoff, h, t.ramBytes_getElem off hoff]
  · intro h
    exact Vector.ext fun off hoff => by simpa using h off hoff

/-! ### Buffers -/

/-- A buffer that keeps its bytes keeps its value. -/
theorem State.memRead_congr {s t : State} {off n : Nat} (h : ∀ a, off ≤ a → a < off + n → t.byteAt a = s.byteAt a) :
    t.memRead off n = s.memRead off n := by
  induction n generalizing off with
  | zero => rfl
  | succ n ih =>
    simp only [State.memRead]
    rw [h off (by omega) (by omega), ih fun a h1 h2 => h a (by omega) (by omega)]

/-- An n-byte buffer holds a value below 256^n. -/
theorem State.memRead_lt (s : State) (off n : Nat) : s.memRead off n < 256 ^ n := by
  induction n generalizing off with
  | zero => simp [State.memRead]
  | succ n ih =>
    have h1 := ih (off + 1)
    have h2 := (s.byteAt off).isLt
    simp only [State.memRead, Nat.pow_succ]
    omega

/-! ### What a buffer write does to the state -/

@[simp] theorem State.memWrite_ctx (s : State) (off n v : Nat) : (s.memWrite off n v).ctx = s.ctx := by
  induction n generalizing s off v with
  | zero => rfl
  | succ n ih => simp [State.memWrite, ih]

@[simp] theorem State.memWrite_err (s : State) (off n v : Nat) : (s.memWrite off n v).err = s.err := by
  induction n generalizing s off v with
  | zero => rfl
  | succ n ih => simp [State.memWrite, ih]

@[simp] theorem State.memWrite_gte (s : State) (off n v : Nat) : (s.memWrite off n v).gte = s.gte := by
  induction n generalizing s off v with
  | zero => rfl
  | succ n ih => simp [State.memWrite, ih]

@[simp] theorem State.memWrite_sticky (s : State) (off n v : Nat) : (s.memWrite off n v).sticky = s.sticky := by
  induction n generalizing s off v with
  | zero => rfl
  | succ n ih => simp [State.memWrite, ih]

@[simp] theorem State.memWrite_lastCmd (s : State) (off n v : Nat) : (s.memWrite off n v).lastCmd = s.lastCmd := by
  induction n generalizing s off v with
  | zero => rfl
  | succ n ih => simp [State.memWrite, ih]

@[simp] theorem State.memWrite_pending (s : State) (off n v : Nat) : (s.memWrite off n v).pending = s.pending := by
  induction n generalizing s off v with
  | zero => rfl
  | succ n ih => simp [State.memWrite, ih]

@[simp] theorem State.memWrite_responses (s : State) (off n v : Nat) : (s.memWrite off n v).responses = s.responses := by
  induction n generalizing s off v with
  | zero => rfl
  | succ n ih => simp [State.memWrite, ih]

@[simp] theorem State.memWrite_ramDraw (s : State) (off n v : Nat) : (s.memWrite off n v).ramDraw = s.ramDraw := by
  induction n generalizing s off v with
  | zero => rfl
  | succ n ih => simp [State.memWrite, ih]

@[simp] theorem State.slot_memWrite (s : State) (off n v : Nat) (k : Slot) : (s.memWrite off n v).slot k = s.slot k :=
  State.slot_congr (State.memWrite_ctx s off n v) k

/-- A write inside the operand RAM keeps the canonical form. -/
theorem State.memWrite_wf {s : State} {off n : Nat} (v : Nat) (hs : Memory.wf s.ram = true)
    (h : off + n ≤ Config.opramBytes) : Memory.wf (s.memWrite off n v).ram = true := by
  induction n generalizing s off v with
  | zero => exact hs
  | succ n ih =>
    simp only [State.memWrite]
    exact ih _ (Memory.wf_store _ hs (by simp only [Config.opramBytes] at *; omega)) (by omega)

/-- A write leaves every byte outside its range alone. -/
theorem State.byteAt_memWrite_outside (s : State) {off n a : Nat} (v : Nat) (h : a < off ∨ off + n ≤ a) :
    (s.memWrite off n v).byteAt a = s.byteAt a := by
  induction n generalizing s off v with
  | zero => rfl
  | succ n ih =>
    simp only [State.memWrite]
    rw [ih _ _ (by omega), State.byteAt_setByte_other _ _ (by omega)]

/-- Byte b of a write's range gets bits [8b+7:8b] of the value (00_scope.md R14). -/
theorem State.byteAt_memWrite_inside (s : State) {off n b : Nat} (v : Nat) (h : b < n) :
    (s.memWrite off n v).byteAt (off + b) = BitVec.ofNat 8 (v / 256 ^ b) := by
  induction n generalizing s off v b with
  | zero => omega
  | succ n ih =>
    simp only [State.memWrite]
    cases b with
    | zero =>
      simp only [Nat.add_zero, Nat.pow_zero, Nat.div_one]
      rw [State.byteAt_memWrite_outside _ _ (by omega), State.byteAt_setByte_self]
    | succ b =>
      rw [show off + (b + 1) = off + 1 + b by omega, ih _ _ (by omega), Nat.div_div_eq_div_mul, Nat.pow_succ']

end Sys2Proof.Machine
end

