-- ==== Sys2Proof/Laws/Commands.lean ====
section
/-! SUPPORT. What the shared operations of the commands can do, said once: the checks, the bodies, and the end of Execute. -/

namespace Sys2Proof.Machine

/-! ### Checks -/

theorem require_eq_ok {α : Type} {p : Bool} {c : ErrCode} {r : Except ErrCode α} {x : α} :
    require p c r = .ok x ↔ p = true ∧ r = .ok x := by
  cases p <;> simp [require]

theorem require_eq_error {α : Type} {p : Bool} {c d : ErrCode} {r : Except ErrCode α} :
    require p c r = .error d ↔ (p = false ∧ d = c) ∨ (p = true ∧ r = .error d) := by
  cases p <;> simp [require, eq_comm]

@[simp] theorem inBounds_iff {off n : Nat} : inBounds off n = true ↔ off + n ≤ 4096 := by simp [inBounds]

@[simp] theorem limbCountOk_iff {len : Nat} : limbCountOk len = true ↔ 1 ≤ len ∧ len ≤ 12 := by simp [limbCountOk]

theorem checkRange_eq_ok {α : Type} {off n : Nat} {r : Except ErrCode α} {x : α} :
    checkRange off n r = .ok x ↔ off + n ≤ 4096 ∧ r = .ok x := by
  simp only [checkRange, require_eq_ok, inBounds_iff]

theorem checkLimbCount_eq_ok {α : Type} {len : Nat} {c : ErrCode} {r : Except ErrCode α} {x : α} :
    checkLimbCount len c r = .ok x ↔ (1 ≤ len ∧ len ≤ 12) ∧ r = .ok x := by
  simp only [checkLimbCount, require_eq_ok, limbCountOk_iff]

theorem checkCtx_eq_ok {α : Type} {s : State} {k : Slot} {len : Nat} {r : Except ErrCode α} {x : α} :
    checkCtx s k len r = .ok x ↔ (s.slot k).valid = true ∧ len = (s.slot k).len.toNat ∧ r = .ok x := by
  simp only [checkCtx, require_eq_ok, decide_eq_true_eq]

theorem checkBelow_eq_ok {α : Type} {x y n : Limbs} {r : Except ErrCode α} {z : α} :
    checkBelow x y n r = .ok z ↔ (gteL x n = false ∧ gteL y n = false) ∧ r = .ok z := by
  simp only [checkBelow, require_eq_ok, Bool.not_eq_true', Bool.or_eq_false_iff]

/-! ### Bodies that succeed -/

/-- What the shared body of ADDMOD, SUBMOD and MULMONT can do when it succeeds: the checks held, `core` gave a limb array, and
that array went to DST. -/
theorem binaryBody_ok {core : Limbs → Limbs → Limbs → Word → Except ErrCode Limbs} {len : Nat} {k : Slot}
    {dst src1 src2 : Nat} {s t : State} (h : binaryBody core len k dst src1 src2 s = .ok t) :
    (s.slot k).valid = true ∧ len = (s.slot k).len.toNat ∧ src1 + 8 * len ≤ 4096 ∧ src2 + 8 * len ≤ 4096 ∧
    dst + 8 * len ≤ 4096 ∧
    ∃ z, core (s.loadOperand src1 len) (s.loadOperand src2 len) ((s.slot k).modLimbs len) (s.slot k).modInv = .ok z ∧
      t = s.storeOperand dst len z := by
  simp only [binaryBody, checkCtx_eq_ok, checkRange_eq_ok, checkBelow_eq_ok] at h
  obtain ⟨h1, h2, h3, h4, h5, -, h6⟩ := h
  refine ⟨h1, h2, h3, h4, h5, ?_⟩
  split at h6
  · rename_i z hz
    exact ⟨z, hz, by simpa using h6.symm⟩
  · simp at h6

/-- What the shared body of TOMONT and TONORM can do when it succeeds. -/
theorem unaryBody_ok {core : Limbs → Context → Except ErrCode Limbs} {len : Nat} {k : Slot} {dst src1 : Nat} {s t : State}
    (h : unaryBody core len k dst src1 s = .ok t) :
    (s.slot k).valid = true ∧ len = (s.slot k).len.toNat ∧ src1 + 8 * len ≤ 4096 ∧ dst + 8 * len ≤ 4096 ∧
    ∃ z, core (s.loadOperand src1 len) (s.slot k) = .ok z ∧ t = s.storeOperand dst len z := by
  simp only [unaryBody, checkCtx_eq_ok, checkRange_eq_ok] at h
  obtain ⟨h1, h2, h3, h4, h5⟩ := h
  refine ⟨h1, h2, h3, h4, ?_⟩
  split at h5
  · rename_i z hz
    exact ⟨z, hz, by simpa using h5.symm⟩
  · simp at h5

/-- What SETMOD's body can do when it succeeds. -/
theorem setmodBody_ok {len : Nat} {k : Slot} {src1 : Nat} {s t : State} (h : setmodBody len k src1 s = .ok t) :
    1 ≤ len ∧ len ≤ 12 ∧ src1 + 8 * len ≤ 4096 ∧ modulusOk (s.loadOperand src1 len) = true ∧
    t = s.setSlot k (newContext (s.loadOperand src1 len) (modInv ((s.loadOperand src1 len).headD 0)) len) := by
  simp only [setmodBody, checkLimbCount_eq_ok, checkRange_eq_ok, require_eq_ok] at h
  obtain ⟨⟨h1, h2⟩, h3, h4, h5⟩ := h
  exact ⟨h1, h2, h3, h4, by simpa using h5.symm⟩

/-- What SETMODI's body can do when it succeeds: the same context as SETMOD's, since the host's constant is the right one. -/
theorem setmodiBody_ok {len : Nat} {k : Slot} {src1 : Nat} {s t : State} (h : setmodiBody len k src1 s = .ok t) :
    1 ≤ len ∧ len ≤ 12 ∧ src1 + (8 * len + 8) ≤ 4096 ∧ modulusOk (s.loadOperand src1 len) = true ∧
    BitVec.ofNat 64 (s.memRead (src1 + 8 * len) 8) = modInv ((s.loadOperand src1 len).headD 0) ∧
    t = s.setSlot k (newContext (s.loadOperand src1 len) (modInv ((s.loadOperand src1 len).headD 0)) len) := by
  simp only [setmodiBody, checkLimbCount_eq_ok, checkRange_eq_ok, require_eq_ok, decide_eq_true_eq] at h
  obtain ⟨⟨h1, h2⟩, h3, h4, h5, h6⟩ := h
  exact ⟨h1, h2, h3, h4, h5, by rw [← h5]; simpa using h6.symm⟩

/-- What CMPGTE's body can do when it succeeds. -/
theorem cmpgteBody_ok {len src1 src2 : Nat} {s t : State} (h : cmpgteBody len src1 src2 s = .ok t) :
    1 ≤ len ∧ len ≤ 12 ∧ src1 + 8 * len ≤ 4096 ∧ src2 + 8 * len ≤ 4096 ∧
    t = s.setGte (gteL (s.loadOperand src1 len) (s.loadOperand src2 len)) := by
  simp only [cmpgteBody, checkLimbCount_eq_ok, checkRange_eq_ok] at h
  obtain ⟨⟨h1, h2⟩, h3, h4, h5⟩ := h
  exact ⟨h1, h2, h3, h4, by simpa using h5.symm⟩

/-- What CSEL's body can do when it succeeds. -/
theorem cselBody_ok {len dst src1 src2 : Nat} {s t : State} (h : cselBody len dst src1 src2 s = .ok t) :
    1 ≤ len ∧ len ≤ 12 ∧ src1 + 8 * len ≤ 4096 ∧ src2 + 8 * len ≤ 4096 ∧ dst + 8 * len ≤ 4096 ∧
    t = s.storeOperand dst len (sel s.gte (s.loadOperand src1 len) (s.loadOperand src2 len)) := by
  simp only [cselBody, checkLimbCount_eq_ok, checkRange_eq_ok] at h
  obtain ⟨⟨h1, h2⟩, h3, h4, h5, h6⟩ := h
  exact ⟨h1, h2, h3, h4, h5, by simpa using h6.symm⟩

/-! ### The end of a command -/

@[simp] theorem finish_ok (f s : State) : finish f (.ok s) = .next s.succeed := rfl

@[simp] theorem finish_error (f : State) (c : ErrCode) : finish f (.error c) = .next (f.raise c) := rfl

/-- A command ends in one of two ways (R117): its body succeeded, or an error was taken. -/
theorem finish_cases {f t : State} {body : Except ErrCode State} (h : finish f body = .next t) :
    (∃ u, body = .ok u ∧ t = u.succeed) ∨ (∃ c, body = .error c ∧ t = f.raise c) := by
  cases body with
  | ok u => exact .inl ⟨u, rfl, by simpa using h.symm⟩
  | error c => exact .inr ⟨c, rfl, by simpa using h.symm⟩

/-- Every command answers a next state: no fault and no refusal (60_exceptions.md R302, 70_reset_and_hazards.md R360). -/
theorem exec_answers (i : Instr) (s : State) : ∃ t, exec i s = .next t := by
  cases i <;> exact ⟨_, rfl⟩

end Sys2Proof.Machine
end

