-- ==== Sys2Proof/Laws/Decode.lean ====
section
/-! SUPPORT. What the fields of a packed command word are: the places and widths of 30_encoding.md R101, read back. -/

namespace Sys2Proof

theorem shiftLeft_or_eq_add {x n y : Nat} (h : y < 2 ^ n) : x <<< n ||| y = x * 2 ^ n + y := by
  rw [Nat.shiftLeft_eq, Nat.mul_comm, ← Nat.two_pow_add_eq_or_of_lt h]

/-- A command word as a number: each field at its place (R101). -/
theorem packWord_toNat (o : Opcode) (len : Nat) (k : Slot) (d a b : Nat) :
    (packWord o len k d a b).toNat =
      o.code.toNat + 2 ^ 8 * (len % 16) + 2 ^ 12 * k.val + 2 ^ 16 * (d % 4096) + 2 ^ 28 * (a % 4096) +
        2 ^ 40 * (b % 4096) := by
  have h1 := o.code.isLt
  have h2 := k.isLt
  simp only [packWord, BitVec.toNat_append]
  rw [shiftLeft_or_eq_add (n := 8) h1, shiftLeft_or_eq_add (n := 4) (BitVec.isLt _),
    shiftLeft_or_eq_add (n := 2) (BitVec.isLt _), shiftLeft_or_eq_add (n := 2) (BitVec.isLt _),
    shiftLeft_or_eq_add (n := 12) (BitVec.isLt _), shiftLeft_or_eq_add (n := 12) (BitVec.isLt _),
    shiftLeft_or_eq_add (n := 12) (BitVec.isLt _)]
  simp
  omega

theorem fieldOpc_packWord (o : Opcode) (len : Nat) (k : Slot) (d a b : Nat) :
    fieldOpc (packWord o len k d a b) = o.code := by
  have h1 := o.code.isLt
  apply BitVec.eq_of_toNat_eq
  simp only [fieldOpc, BitVec.extractLsb'_toNat, packWord_toNat, Nat.shiftRight_eq_div_pow]
  omega

theorem fieldLen_packWord (o : Opcode) (len : Nat) (k : Slot) (d a b : Nat) :
    fieldLen (packWord o len k d a b) = len % 16 := by
  have h1 := o.code.isLt
  have h2 := k.isLt
  simp only [fieldLen, BitVec.extractLsb'_toNat, packWord_toNat, Nat.shiftRight_eq_div_pow]
  omega

theorem fieldCtx_packWord (o : Opcode) (len : Nat) (k : Slot) (d a b : Nat) :
    fieldCtx (packWord o len k d a b) = k := by
  have h1 := o.code.isLt
  have h2 := k.isLt
  apply Fin.ext
  change ((packWord o len k d a b).extractLsb' 12 2).toNat = k.val
  simp only [BitVec.extractLsb'_toNat, packWord_toNat, Nat.shiftRight_eq_div_pow]
  omega

theorem fieldDst_packWord (o : Opcode) (len : Nat) (k : Slot) (d a b : Nat) :
    fieldDst (packWord o len k d a b) = d % 4096 := by
  have h1 := o.code.isLt
  have h2 := k.isLt
  simp only [fieldDst, BitVec.extractLsb'_toNat, packWord_toNat, Nat.shiftRight_eq_div_pow]
  omega

theorem fieldSrc1_packWord (o : Opcode) (len : Nat) (k : Slot) (d a b : Nat) :
    fieldSrc1 (packWord o len k d a b) = a % 4096 := by
  have h1 := o.code.isLt
  have h2 := k.isLt
  simp only [fieldSrc1, BitVec.extractLsb'_toNat, packWord_toNat, Nat.shiftRight_eq_div_pow]
  omega

theorem fieldSrc2_packWord (o : Opcode) (len : Nat) (k : Slot) (d a b : Nat) :
    fieldSrc2 (packWord o len k d a b) = b % 4096 := by
  have h1 := o.code.isLt
  have h2 := k.isLt
  simp only [fieldSrc2, BitVec.extractLsb'_toNat, packWord_toNat, Nat.shiftRight_eq_div_pow]
  omega

theorem fieldRsvd0_packWord (o : Opcode) (len : Nat) (k : Slot) (d a b : Nat) :
    fieldRsvd0 (packWord o len k d a b) = 0 := by
  have h1 := o.code.isLt
  have h2 := k.isLt
  apply BitVec.eq_of_toNat_eq
  simp only [fieldRsvd0, BitVec.extractLsb'_toNat, packWord_toNat, Nat.shiftRight_eq_div_pow]
  simp
  omega

theorem fieldRsvd1_packWord (o : Opcode) (len : Nat) (k : Slot) (d a b : Nat) :
    fieldRsvd1 (packWord o len k d a b) = 0 := by
  have h1 := o.code.isLt
  have h2 := k.isLt
  apply BitVec.eq_of_toNat_eq
  simp only [fieldRsvd1, BitVec.extractLsb'_toNat, packWord_toNat, Nat.shiftRight_eq_div_pow]
  simp
  omega

/-- The opcode map finds each opcode by its code: the ten codes differ (R107). -/
theorem opcodeOf_code (o : Opcode) : opcodeOf o.code = some o := by cases o <;> decide

/-- Decode by the row that the OPC field names (R108). -/
theorem decode_of_opcodeOf {w : Word} {o : Opcode} (h : opcodeOf (fieldOpc w) = some o) (hm : w &&& o.mask = o.pattern) :
    decode w = .ok (buildInstr o w) := by
  simp [decode, h, hm]

end Sys2Proof
end

