-- ==== Sys2Proof/Laws/Limbs.lean ====
section
/-! SUPPORT. Lengths and shapes: every datapath unit gives as many limbs as it gets (40_limb_primitives.md R148), and what a
store of an operand is. -/

namespace Sys2Proof.Machine

@[simp] theorem limbsOf_length (v len : Nat) : (limbsOf v len).length = len := by
  induction len generalizing v with
  | zero => rfl
  | succ len ih => simp [limbsOf, ih]

@[simp] theorem State.loadOperand_length (s : State) (off len : Nat) : (s.loadOperand off len).length = len :=
  limbsOf_length _ _

@[simp] theorem oneLimbs_length (len : Nat) : (oneLimbs len).length = len := limbsOf_length _ _

theorem State.storeOperand_eq (s : State) (off len : Nat) (a : Limbs) :
    s.storeOperand off len a = s.memWrite off (8 * len) (valOf a) := rfl

theorem addChain_length {a b : Limbs} (h : a.length = b.length) (c : Bool) : (addChain a b c).2.length = a.length := by
  induction a generalizing b c with
  | nil => rfl
  | cons x xs ih =>
    cases b with
    | nil => simp at h
    | cons y ys => simp [addChain, ih (b := ys) (by simpa using h)]

theorem subChain_length {a b : Limbs} (h : a.length = b.length) (c : Bool) : (subChain a b c).2.length = a.length := by
  induction a generalizing b c with
  | nil => rfl
  | cons x xs ih =>
    cases b with
    | nil => simp at h
    | cons y ys => simp [subChain, ih (b := ys) (by simpa using h)]

theorem macChain_length {t a : Limbs} (h : t.length = a.length) (b c : Word) : (macChain t a b c).2.length = t.length := by
  induction t generalizing a c with
  | nil => rfl
  | cons x xs ih =>
    cases a with
    | nil => simp at h
    | cons y ys => simp [macChain, ih (a := ys) (by simpa using h)]

/-- A CIOS iteration keeps the accumulator's length and leaves T[L+1] at 0. -/
theorem ciosRound_shape {t : Acc} {x n : Limbs} (hx : x.length = n.length) (ht : t.lo.length = n.length) (hn : n ≠ [])
    (ninv yi : Word) : (ciosRound x n ninv t yi).lo.length = n.length ∧ (ciosRound x n ninv t yi).tL1 = 0 := by
  have hpos : 0 < n.length := List.length_pos_iff.2 hn
  have h1 : (ciosStep1 t x yi).lo.length = n.length := by
    rw [ciosStep1, macChain_length (by omega)]; exact ht
  refine ⟨?_, rfl⟩
  simp only [ciosRound, ciosStep4, ciosStep3, List.length_append, List.length_tail, List.length_singleton]
  rw [macChain_length h1]
  omega

/-- The unit's only error (R219). -/
theorem cios_error {x y n : Limbs} {v : Word} {e : ErrCode} (h : cios x y n v = .error e) : e = .internalInvariant := by
  simp only [cios, finalCorrection] at h
  split at h
  · split at h <;> simp at h
    exact h.symm
  · split at h <;> simp at h

/-- A buffer write touches the memory only. -/
theorem State.memWrite_eq (s : State) (off n v : Nat) : s.memWrite off n v = { s with ram := (s.memWrite off n v).ram } := by
  induction n generalizing s off v with
  | zero => rfl
  | succ n ih => simp only [State.memWrite]; rw [ih]; rfl

/-- A buffer write outside a buffer leaves its value alone. -/
theorem State.memRead_memWrite_outside (s : State) {off n a m : Nat} (v : Nat) (h : a + m ≤ off ∨ off + n ≤ a) :
    (s.memWrite off n v).memRead a m = s.memRead a m :=
  State.memRead_congr fun _ h1 h2 => State.byteAt_memWrite_outside s v (by omega)

end Sys2Proof.Machine
end

