-- ==== Sys2Proof/Laws/Exec.lean ====
section
/-! SUPPORT. What a command can do, said once: it fails (60_exceptions.md R302), or it stores one buffer, or writes one slot, or
writes GTE, and its code is 0. -/

namespace Sys2Proof.Machine

theorem require_error_ne_ok {α : Type} {p : Bool} {c d : ErrCode} {r : Except ErrCode α} (hc : c ≠ .ok)
    (hr : r = .error d → d ≠ .ok) : require p c r = .error d → d ≠ .ok := by
  cases p
  · intro h
    simp only [require, Bool.false_eq_true, if_false, Except.error.injEq] at h
    exact h ▸ hc
  · exact hr

theorem binaryBody_error_ne_ok {core : Limbs → Limbs → Limbs → Word → Except ErrCode Limbs} {len : Nat} {k : Slot}
    {dst src1 src2 : Nat} {s : State} {e : ErrCode} (hcore : ∀ x y n v d, core x y n v = .error d → d ≠ .ok) :
    binaryBody core len k dst src1 src2 s = .error e → e ≠ .ok := by
  unfold binaryBody checkCtx checkRange checkBelow
  refine require_error_ne_ok (by decide) <| require_error_ne_ok (by decide) <| require_error_ne_ok (by decide) <|
    require_error_ne_ok (by decide) <| require_error_ne_ok (by decide) <| require_error_ne_ok (by decide) ?_
  intro h
  split at h
  · simp at h
  · rename_i c hc
    simp only [Except.error.injEq] at h
    exact h ▸ hcore _ _ _ _ _ hc

theorem unaryBody_error_ne_ok {core : Limbs → Context → Except ErrCode Limbs} {len : Nat} {k : Slot} {dst src1 : Nat}
    {s : State} {e : ErrCode} (hcore : ∀ x c d, core x c = .error d → d ≠ .ok) :
    unaryBody core len k dst src1 s = .error e → e ≠ .ok := by
  unfold unaryBody checkCtx checkRange
  refine require_error_ne_ok (by decide) <| require_error_ne_ok (by decide) <| require_error_ne_ok (by decide) <|
    require_error_ne_ok (by decide) ?_
  intro h
  split at h
  · simp at h
  · rename_i c hc
    simp only [Except.error.injEq] at h
    exact h ▸ hcore _ _ _ hc

/-- The code of an error is not 0. -/
theorem ErrCode.code_ne_zero {c : ErrCode} (h : c ≠ .ok) : c.code ≠ 0 := by
  cases c <;> first | exact absurd rfl h | decide

/-- The state an error is taken in: the slot of a SETMOD or SETMODI is cleared first (R302 point 5). -/
def failedState (i : Instr) (s : State) : State :=
  match i.setsContext with
  | some k => s.clearSlot k
  | none => s

/-- What `exec` can answer: an error taken, one buffer stored, one slot written, or GTE written. -/
theorem exec_cases {i : Instr} {s t : State} (h : exec i s = .next t) :
    (∃ c : ErrCode, c ≠ .ok ∧ t = (failedState i s).raise c) ∨
    (∃ dst len a, i.storedRange = some (dst, 8 * len) ∧ dst + 8 * len ≤ 4096 ∧ t = (s.storeOperand dst len a).succeed) ∨
    (∃ k c, i.storedRange = none ∧ i.writtenSlot = some k ∧ i.isCmpgte = false ∧ t = (s.setSlot k c).succeed) ∨
    (∃ len a b, i = .cmpgte len a b ∧ t = (s.setGte (gteL (s.loadOperand a len) (s.loadOperand b len))).succeed) := by
  have fin : ∀ {P : Prop} {f : State} {body : Except ErrCode State}, finish f body = .next t →
      (∀ c, body = .error c → t = f.raise c → P) → (∀ u, body = .ok u → t = u.succeed → P) → P := by
    intro P f body h he ho
    rcases finish_cases h with ⟨u, hu, ht⟩ | ⟨c, hc, ht⟩
    · exact ho u hu ht
    · exact he c hc ht
  cases i with
  | setmod len k a =>
    refine fin h (fun c hc ht => .inl ⟨c, ?_, ht⟩) fun u hu ht => ?_
    · revert hc
      unfold setmodBody checkLimbCount checkRange
      exact require_error_ne_ok (by decide) <| require_error_ne_ok (by decide) <| require_error_ne_ok (by decide) (by simp)
    · obtain ⟨-, -, -, -, rfl⟩ := setmodBody_ok hu
      exact .inr (.inr (.inl ⟨k, _, rfl, rfl, rfl, ht⟩))
  | setmodi len k a =>
    refine fin h (fun c hc ht => .inl ⟨c, ?_, ht⟩) fun u hu ht => ?_
    · revert hc
      unfold setmodiBody checkLimbCount checkRange
      exact require_error_ne_ok (by decide) <| require_error_ne_ok (by decide) <| require_error_ne_ok (by decide) <|
        require_error_ne_ok (by decide) (by simp)
    · obtain ⟨-, -, -, -, -, rfl⟩ := setmodiBody_ok hu
      exact .inr (.inr (.inl ⟨k, _, rfl, rfl, rfl, ht⟩))
  | clrctx k =>
    refine fin (f := s) (body := .ok (s.clearSlot k)) h (fun c hc => by simp at hc) fun u hu ht => ?_
    simp only [Except.ok.injEq] at hu
    subst hu
    exact .inr (.inr (.inl ⟨k, Context.empty, rfl, rfl, rfl, ht⟩))
  | addmod len k dst a b =>
    refine fin h (fun c hc ht => .inl ⟨c, binaryBody_error_ne_ok (by simp) hc, ht⟩) fun u hu ht => ?_
    obtain ⟨-, -, -, -, hb, z, -, rfl⟩ := binaryBody_ok hu
    exact .inr (.inl ⟨dst, len, z, rfl, hb, ht⟩)
  | submod len k dst a b =>
    refine fin h (fun c hc ht => .inl ⟨c, binaryBody_error_ne_ok (by simp) hc, ht⟩) fun u hu ht => ?_
    obtain ⟨-, -, -, -, hb, z, -, rfl⟩ := binaryBody_ok hu
    exact .inr (.inl ⟨dst, len, z, rfl, hb, ht⟩)
  | mulmont len k dst a b =>
    refine fin h (fun c hc ht => .inl ⟨c, binaryBody_error_ne_ok (fun _ _ _ _ _ he => ?_) hc, ht⟩) fun u hu ht => ?_
    · rw [cios_error he]; decide
    · obtain ⟨-, -, -, -, hb, z, -, rfl⟩ := binaryBody_ok hu
      exact .inr (.inl ⟨dst, len, z, rfl, hb, ht⟩)
  | tomont len k dst a =>
    refine fin h (fun c hc ht => .inl ⟨c, unaryBody_error_ne_ok (fun _ _ _ he => ?_) hc, ht⟩) fun u hu ht => ?_
    · rw [cios_error he]; decide
    · obtain ⟨-, -, -, hb, z, -, rfl⟩ := unaryBody_ok hu
      exact .inr (.inl ⟨dst, len, z, rfl, hb, ht⟩)
  | tonorm len k dst a =>
    refine fin h (fun c hc ht => .inl ⟨c, unaryBody_error_ne_ok (fun _ _ _ he => ?_) hc, ht⟩) fun u hu ht => ?_
    · rw [cios_error he]; decide
    · obtain ⟨-, -, -, hb, z, -, rfl⟩ := unaryBody_ok hu
      exact .inr (.inl ⟨dst, len, z, rfl, hb, ht⟩)
  | cmpgte len a b =>
    refine fin h (fun c hc ht => .inl ⟨c, ?_, ht⟩) fun u hu ht => ?_
    · revert hc
      unfold cmpgteBody checkLimbCount checkRange
      exact require_error_ne_ok (by decide) <| require_error_ne_ok (by decide) <| require_error_ne_ok (by decide) (by simp)
    · obtain ⟨-, -, -, -, rfl⟩ := cmpgteBody_ok hu
      exact .inr (.inr (.inr ⟨len, a, b, rfl, ht⟩))
  | csel len dst a b =>
    refine fin h (fun c hc ht => .inl ⟨c, ?_, ht⟩) fun u hu ht => ?_
    · revert hc
      unfold cselBody checkLimbCount checkRange
      exact require_error_ne_ok (by decide) <| require_error_ne_ok (by decide) <| require_error_ne_ok (by decide) <|
        require_error_ne_ok (by decide) (by simp)
    · obtain ⟨-, -, -, -, hb, rfl⟩ := cselBody_ok hu
      exact .inr (.inl ⟨dst, len, _, rfl, hb, ht⟩)

end Sys2Proof.Machine
end

