-- ==== Sys2Proof/Laws/PerInstr.lean ====
section
/-! SUPPORT. Statements made constructor by constructor: the encoding of a command carries its row's opcode and no reserved
bit (30_encoding.md R105, R107). -/

namespace Sys2Proof.Laws.EncodedOpcode

/-- The encoded word's OPC field names the command's row, and its reserved fields are 0. -/
def Statement (i : Instr) : Prop :=
  opcodeOf (fieldOpc (encode i)) = some i.opcode ∧ fieldRsvd0 (encode i) = 0 ∧ fieldRsvd1 (encode i) = 0

/-- What every packed word meets. -/
theorem packed (o : Opcode) (len : Nat) (k : Slot) (d a b : Nat) :
    opcodeOf (fieldOpc (packWord o len k d a b)) = some o ∧ fieldRsvd0 (packWord o len k d a b) = 0 ∧
      fieldRsvd1 (packWord o len k d a b) = 0 :=
  ⟨by rw [fieldOpc_packWord, opcodeOf_code], fieldRsvd0_packWord .., fieldRsvd1_packWord ..⟩

theorem setmod (len : Nat) (ctx : Slot) (src1 : Nat) : Statement (.setmod len ctx src1) := packed ..
theorem setmodi (len : Nat) (ctx : Slot) (src1 : Nat) : Statement (.setmodi len ctx src1) := packed ..
theorem clrctx (ctx : Slot) : Statement (.clrctx ctx) := packed ..
theorem addmod (len : Nat) (ctx : Slot) (dst src1 src2 : Nat) : Statement (.addmod len ctx dst src1 src2) := packed ..
theorem submod (len : Nat) (ctx : Slot) (dst src1 src2 : Nat) : Statement (.submod len ctx dst src1 src2) := packed ..
theorem mulmont (len : Nat) (ctx : Slot) (dst src1 src2 : Nat) : Statement (.mulmont len ctx dst src1 src2) := packed ..
theorem tomont (len : Nat) (ctx : Slot) (dst src1 : Nat) : Statement (.tomont len ctx dst src1) := packed ..
theorem tonorm (len : Nat) (ctx : Slot) (dst src1 : Nat) : Statement (.tonorm len ctx dst src1) := packed ..
theorem cmpgte (len src1 src2 : Nat) : Statement (.cmpgte len src1 src2) := packed ..
theorem csel (len dst src1 src2 : Nat) : Statement (.csel len dst src1 src2) := packed ..

end Sys2Proof.Laws.EncodedOpcode
end

