-- ==== Sys2Proof/Laws/Steps.lean ====
section
/-! SUPPORT. What one step can do, said once. -/

namespace Sys2Proof.Machine

/-- What a transaction can do (20_memory.md R95): an ERROR response, a read, a plain write, a command that decodes, or a word
that does not. -/
theorem serve_cases {r : Request} {s t : State} (h : serve r s = .next t) :
    (r.accepted = false ∧ t = s.respond .error 0) ∨
    (r.accepted = true ∧ r.kind = .read ∧ t = s.respond .okay (s.readTarget r.size (targetOf r.addr))) ∨
    (r.accepted = true ∧ r.kind = .write ∧ targetOf r.addr ≠ .cmd ∧
      t = (s.writeTarget r.size r.wdata (targetOf r.addr)).respond .okay 0) ∨
    (∃ i, r.accepted = true ∧ r.kind = .write ∧ targetOf r.addr = .cmd ∧ decode r.wdata = .ok i ∧
      exec i { s.respond .okay 0 with lastCmd := r.wdata } = .next t) ∨
    (∃ e, r.accepted = true ∧ r.kind = .write ∧ targetOf r.addr = .cmd ∧ decode r.wdata = .error e ∧
      t = ({ s.respond .okay 0 with lastCmd := r.wdata } : State).raise .illegalCmd) := by
  unfold serve at h
  cases ha : r.accepted with
  | false => simp [ha] at h; exact .inl ⟨rfl, h.symm⟩
  | true =>
    simp only [ha, ↓reduceIte] at h
    cases hk : r.kind with
    | read => simp [hk] at h; exact .inr (.inl ⟨rfl, rfl, h.symm⟩)
    | write =>
      simp only [hk] at h
      by_cases hc : targetOf r.addr = .cmd
      · simp only [hc, ↓reduceIte, execute] at h
        cases hd : decode r.wdata with
        | ok i => simp only [hd] at h; exact .inr (.inr (.inr (.inl ⟨i, rfl, rfl, hc, rfl, h⟩)))
        | error e =>
          simp only [hd, Host.Outcome.next.injEq] at h
          exact .inr (.inr (.inr (.inr ⟨e, rfl, rfl, hc, rfl, h.symm⟩)))
      · simp only [hc, ↓reduceIte, Host.Outcome.next.injEq] at h
        exact .inr (.inr (.inl ⟨rfl, rfl, hc, h.symm⟩))

/-- What a READ does, of whatever write data (20_memory.md R80, R95). -/
theorem serve_read {r : Request} (s : State) (hk : r.kind = .read) :
    serve r s = .next (if r.accepted then s.respond .okay (s.readTarget r.size (targetOf r.addr)) else s.respond .error 0) := by
  unfold serve
  rw [hk]
  split <;> rfl

/-- Every transaction answers a next state. -/
theorem serve_answers (r : Request) (s : State) : ∃ t, serve r s = .next t := by
  unfold serve
  split
  · split
    · exact ⟨_, rfl⟩
    · split
      · unfold execute
        split
        · exact exec_answers _ _
        · exact ⟨_, rfl⟩
      · exact ⟨_, rfl⟩
  · exact ⟨_, rfl⟩

/-- What one step can do: nothing, a reset, or one transaction. -/
theorem step_cases {s t : State} (h : step s = .next t) :
    (s.pending = [] ∧ t = s) ∨
    (∃ rest, s.pending = .reset :: rest ∧ t = ({ s with pending := rest } : State).applyReset) ∨
    (∃ r rest, s.pending = .request r :: rest ∧ serve r { s with pending := rest } = .next t) := by
  unfold step at h
  split at h
  · rename_i hp; exact .inl ⟨hp, by simpa using h.symm⟩
  · rename_i rest hp; exact .inr (.inl ⟨rest, hp, by simpa using h.symm⟩)
  · rename_i r rest hp; exact .inr (.inr ⟨r, rest, hp, h⟩)

/-- The block never stops (70_reset_and_hazards.md R363). -/
theorem step_answers (s : State) : ∃ t, step s = .next t := by
  unfold step
  split
  · exact ⟨_, rfl⟩
  · exact ⟨_, rfl⟩
  · exact serve_answers _ _

/-- A write to CMD is always accepted (60_exceptions.md R304). -/
theorem commandRequest_accepted (w : Word) : (commandRequest w).accepted = true := by
  have h : targetOf 4096#16 = .cmd := by decide
  simp [Request.accepted, commandRequest, Target.sizeOk, AccessSize.bytes, h]

theorem commandRequest_target (w : Word) : targetOf (commandRequest w).addr = .cmd := by
  have h : targetOf 4096#16 = .cmd := by decide
  simp [commandRequest, h]

/-- A write to CMD runs its word as a command. -/
theorem serve_commandRequest (w : Word) (s : State) : serve (commandRequest w) s = execute w (s.respond .okay 0) := by
  unfold serve
  rw [commandRequest_accepted, commandRequest_target]
  rfl

end Sys2Proof.Machine
end

