-- ==== Sys2Proof/Tests/Slice0.lean ====
section
/-! SUPPORT. Tests, their expected results taken from 95_test_vectors.md or written out by hand from the encoding tables, and for
every statement with hypotheses a witness: concrete inputs that meet all of them together. -/

open Sys2Proof Sys2Proof.Machine

namespace Sys2Proof.Tests

/-! ### Small states -/

/-- The context of N = 0xFFFFFFFFFFFFFFC5, L = 1 (95_test_vectors.md k1). -/
def primeContext : Context :=
  { valid := true
    len := 1
    mod := #v[0xFFFFFFFFFFFFFFC5, 0, 0, 0, 0, 0, 0, 0, 0, 0, 0, 0]
    modInv := 0xCBEEA4E1A08AD8F3
    r2 := #v[0xD99, 0, 0, 0, 0, 0, 0, 0, 0, 0, 0, 0] }

/-- Two operands, at @0x008 and @0x010, and the modulus at @0x000, in a block whose slot 0 holds the prime's context. -/
def two (x y : Nat) : State :=
  (((State.reset.setSlot 0 primeContext).memWrite 0x000 8 0xFFFFFFFFFFFFFFC5).memWrite 0x008 8 x).memWrite 0x010 8 y

/-- The start state of the error rows of V8, but for @0x018. -/
def v8 : State := two 5 0xFFFFFFFFFFFFFFC5

/-- The host is about to write a command word to CMD. -/
def told (s : State) (w : Word) : State := { s with pending := [.request (commandRequest w)] }

/-- The host is about to make these requests. -/
def asked (s : State) (rs : List Request) : State := { s with pending := rs.map .request }

/-- A request by its parts. -/
def req (kind : AccessKind) (addr : Nat) (size : AccessSize) (wdata : Word) : Request :=
  { kind := kind, addr := BitVec.ofNat 16 addr, size := size, wdata := wdata }

/-- A property of the next state; false of a stop. -/
def after (r : StepResult) (p : State → Bool) : Bool :=
  match r with
  | .next t => p t
  | .fault _ => false
  | .refused _ => false

/-- STATUS.ERR after a step; 15 for a stop. -/
def errOf (r : StepResult) : Nat :=
  match r with
  | .next t => t.err.toNat
  | .fault _ => 15
  | .refused _ => 15

/-- The last response after a step. -/
def lastResponse (r : StepResult) : Option Response :=
  match r with
  | .next t => t.responses.getLast?
  | .fault _ => none
  | .refused _ => none

/-- The code of each command word, written from one state. -/
def codes (s : State) (ws : List Word) : List Nat := ws.map (fun w => errOf (step (told s w)))

/-! ### Well-formedness: one ill-formed term for each check -/

theorem test_wf_setmod_len : Instr.wellFormed (.setmod 16 0 0) = false := by decide
theorem test_wf_setmod_src1 : Instr.wellFormed (.setmod 1 0 4096) = false := by decide
theorem test_wf_setmodi_len : Instr.wellFormed (.setmodi 16 0 0) = false := by decide
theorem test_wf_setmodi_src1 : Instr.wellFormed (.setmodi 1 0 4096) = false := by decide
theorem test_wf_three_operands_len :
    [Instr.addmod 16 0 0 0 0, .submod 16 0 0 0 0, .mulmont 16 0 0 0 0, .csel 16 0 0 0].all (fun i => !i.wellFormed) = true := by
  decide
theorem test_wf_three_operands_dst :
    [Instr.addmod 1 0 4096 0 0, .submod 1 0 4096 0 0, .mulmont 1 0 4096 0 0, .csel 1 4096 0 0].all
      (fun i => !i.wellFormed) = true := by decide
theorem test_wf_three_operands_src1 :
    [Instr.addmod 1 0 0 4096 0, .submod 1 0 0 4096 0, .mulmont 1 0 0 4096 0, .csel 1 0 4096 0].all
      (fun i => !i.wellFormed) = true := by decide
theorem test_wf_three_operands_src2 :
    [Instr.addmod 1 0 0 0 4096, .submod 1 0 0 0 4096, .mulmont 1 0 0 0 4096, .csel 1 0 0 4096].all
      (fun i => !i.wellFormed) = true := by decide
theorem test_wf_conversions :
    [Instr.tomont 16 0 0 0, .tomont 1 0 4096 0, .tomont 1 0 0 4096, .tonorm 16 0 0 0, .tonorm 1 0 4096 0,
      .tonorm 1 0 0 4096].all (fun i => !i.wellFormed) = true := by decide
theorem test_wf_cmpgte :
    [Instr.cmpgte 16 0 0, .cmpgte 1 4096 0, .cmpgte 1 0 4096].all (fun i => !i.wellFormed) = true := by decide
theorem test_wf_limits_fit :
    [Instr.setmod 15 3 4095, .setmodi 15 3 4095, .clrctx 3, .addmod 15 3 4095 4095 4095, .submod 0 0 0 0 0,
      .mulmont 15 3 4095 4095 4095, .tomont 15 3 4095 4095, .tonorm 15 3 4095 4095, .cmpgte 15 4095 4095,
      .csel 15 4095 4095 4095].all Instr.wellFormed = true := by decide
theorem test_wf_line_refused :
    [ProgramLine.wr64 0x10000 0, .wr64 0 (2 ^ 64), .rd64 0x10000, .wrbuf 4 1 0, .wrbuf 0xFFF8 2 0, .wrbuf 0 1 (2 ^ 64),
      .pseudo (.copy 16 0 0)].all (fun l => !l.fits) = true := by decide

/-! ### Decode: words written bit by bit from R101: RSVD1, SRC2, SRC1, DST, RSVD0, CTX, LEN, OPC -/

theorem test_decode_setmod :
    decode 0b000000000000_000000000000_001000000000_000000000000_00_01_0110_00000001 = .ok (.setmod 6 1 0x200) := by decide
theorem test_decode_setmodi :
    decode 0b000000000000_000000000000_001100000000_000000000000_00_10_0100_00000010 = .ok (.setmodi 4 2 0x300) := by decide
theorem test_decode_clrctx :
    decode 0b000000000000_000000000000_000000000000_000000000000_00_11_0000_00000011 = .ok (.clrctx 3) := by decide
theorem test_decode_addmod :
    decode 0b000000000000_000001000000_000000000000_000100000000_00_00_0100_00010000 =
      .ok (.addmod 4 0 0x100 0x000 0x040) := by decide
theorem test_decode_submod :
    decode 0b000000000000_000000001000_000000010000_000000011000_00_00_0001_00010001 =
      .ok (.submod 1 0 0x018 0x010 0x008) := by decide
theorem test_decode_mulmont :
    decode 0b000000000000_111011100000_111101000000_111110100000_00_11_1100_00010010 =
      .ok (.mulmont 12 3 0xFA0 0xF40 0xEE0) := by decide
theorem test_decode_tomont :
    decode 0b000000000000_000000000000_000001100000_000011000000_00_01_0110_00010011 =
      .ok (.tomont 6 1 0x0C0 0x060) := by decide
theorem test_decode_tonorm :
    decode 0b000000000000_000000000000_000011000000_000001100000_00_01_0110_00010100 =
      .ok (.tonorm 6 1 0x060 0x0C0) := by decide
theorem test_decode_cmpgte :
    decode 0b000000000000_000000100000_000000010000_000000000000_00_00_0010_00100000 =
      .ok (.cmpgte 2 0x010 0x020) := by decide
theorem test_decode_csel :
    decode 0b000000000000_000000100000_000000010000_000000110000_00_00_0010_00100001 =
      .ok (.csel 2 0x030 0x010 0x020) := by decide

/-- The illegal words of V10, each with the model's reason. -/
theorem test_decode_rejects :
    [0x0000000000000000, 0x00000000000000FF, 0x0000000000000015, 0x0000000000000103, 0x0000000000010003, 0x0000000000004410,
      0x0010000000000410, 0x8000400001000410].map decode =
    [.error .unassignedOpcode, .error .unassignedOpcode, .error .unassignedOpcode, .error .unusedFieldSet,
      .error .unusedFieldSet, .error .reservedBitSet, .error .reservedBitSet, .error .reservedBitSet] := by decide

/-- The last two rows of V10 pass decode. -/
theorem test_decode_shape_errors_come_later :
    decode 0x0000000000000D20 = .ok (.cmpgte 13 0 0) ∧ decode 0x0000000001000013 = .ok (.tomont 0 0 0x100 0) := by decide

theorem test_disassemble :
    disassemble 0x000EE0F40FA03C12 = "mulmont.L12 c3, @0xFA0, @0xF40, @0xEE0" ∧
    disassemble 0x8000400001000410 = ".illegal 0x8000400001000410" := by decide

/-- The assembler refuses k > 3, n > 15 and an offset above 4095 (R111). -/
theorem test_assemble_refuses :
    assemble "clrctx c4" = none ∧ assemble "setmod.L16 c0, @0x000" = none ∧ assemble "setmod.L1 c0, @0x1000" = none := by
  decide

/-- Lines of P3 and P5: the pseudo-instructions and the host actions (R113, R114). -/
theorem test_assemble_pseudo :
    assembleProgram ["copy.L2 @0x050, @0x000", "mulmod.L6 c3, @0x490, @0x430, @0x460", "wr64 0x1008, 0x100"] =
      some [commandRequest 0x0000000000500221, commandRequest 0x0004604304903612, commandRequest 0x0000004904903613,
        write64 0x1008 0x100] := by decide +kernel

theorem test_wrbuf_writes_low_limb_first :
    (ProgramLine.wrbuf 0x000 2 0x10000000000000000).requests = [write64 0x000 0, write64 0x008 1] := by decide

/-! ### The units (V1) -/

theorem test_adc_carries : adc 0xFFFFFFFFFFFFFFFF 0xFFFFFFFFFFFFFFFF true = (true, 0xFFFFFFFFFFFFFFFF) := by decide
theorem test_sbb_borrows : sbb 0 0xFFFFFFFFFFFFFFFF true = (true, 0) := by decide
theorem test_mac_widest :
    mac 0xFFFFFFFFFFFFFFFF 0xFFFFFFFFFFFFFFFF 0xFFFFFFFFFFFFFFFF 0xFFFFFFFFFFFFFFFF =
      (0xFFFFFFFFFFFFFFFF, 0xFFFFFFFFFFFFFFFF) := by decide
theorem test_addL_ripples : addL [0xFFFFFFFFFFFFFFFF, 0xFFFFFFFFFFFFFFFF] [1, 0] = (true, [0, 0]) := by decide
theorem test_subL_ripples : subL [0, 1] [1, 0] = (false, [0xFFFFFFFFFFFFFFFF, 0]) := by decide
theorem test_gteL_top_limb_decides : gteL [0xFFFFFFFFFFFFFFFF, 0] [0, 1] = false := by decide

/-- S1: the accumulator of the one iteration, and branch A. -/
theorem test_cios_trace_s1 :
    ciosLoop [0xFFFFFFFFFFFFFFFE] [0xFFFFFFFFFFFFFFFE] [0xFFFFFFFFFFFFFFFF] 1 = { lo := [0], tL := 1, tL1 := 0 } ∧
    cios [0xFFFFFFFFFFFFFFFE] [0xFFFFFFFFFFFFFFFE] [0xFFFFFFFFFFFFFFFF] 1 = .ok [1] := by decide

/-- m2: branch B. -/
theorem test_cios_branch_b :
    cios [0x1D266A8E47FFE0D5] [0x7431F8CC99D828B7] [0x8000000000000001] 0x7FFFFFFFFFFFFFFF = .ok [0x01E54DFC27558B96] := by
  decide

/-! ### The commands, at most two tests each -/

/-- c1: a tie gives 1. -/
theorem test_cmpgte_tie : after (exec (.cmpgte 1 0x008 0x010) (two 5 5)) (fun t => t.gte) = true := by decide

/-- c2, which also clears a set flag. -/
theorem test_cmpgte_below :
    after (exec (.cmpgte 1 0x008 0x010) { two 4 5 with gte := true }) (fun t => !t.gte && decide (t.err = 0)) = true := by decide

/-- s3: the destination is the first source. -/
theorem test_csel_second :
    after (exec (.csel 1 0x008 0x008 0x010) (two 0xAA 0xBB)) (fun t => decide (t.memRead 0x008 8 = 0xBB)) = true := by decide

/-- s1. -/
theorem test_csel_first :
    after (exec (.csel 1 0x018 0x008 0x010) { two 0xAA 0xBB with gte := true }) (fun t => decide (t.memRead 0x018 8 = 0xAA)) =
      true := by decide

/-- a1: the addition carries out of the top limb. -/
theorem test_addmod_carry :
    after (exec (.addmod 1 0 0x018 0x008 0x010) (two 0xFFFFFFFFFFFFFFC4 0xFFFFFFFFFFFFFFC4))
      (fun t => decide (t.memRead 0x018 8 = 0xFFFFFFFFFFFFFFC3)) = true := by decide

/-- a2: the sum is N itself. -/
theorem test_addmod_sum_is_modulus :
    after (exec (.addmod 1 0 0x008 0x008 0x010) (two 1 0xFFFFFFFFFFFFFFC4)) (fun t => decide (t.memRead 0x008 8 = 0)) = true := by
  decide

/-- b1. -/
theorem test_submod_wraps :
    after (exec (.submod 1 0 0x018 0x008 0x010) (two 0 1)) (fun t => decide (t.memRead 0x018 8 = 0xFFFFFFFFFFFFFFC4)) = true := by
  decide

/-- b5. -/
theorem test_submod_plain :
    after (exec (.submod 1 0 0x018 0x008 0x010) (two 5 3)) (fun t => decide (t.memRead 0x018 8 = 2)) = true := by decide

/-- m4. -/
theorem test_mulmont_product :
    after (exec (.mulmont 1 0 0x018 0x008 0x010) (two 0x1234 0x5678))
      (fun t => decide (t.memRead 0x018 8 = 0x3CBEEA4E1A235B12)) = true := by decide

/-- m5, in place. -/
theorem test_mulmont_branch_a :
    after (exec (.mulmont 1 0 0x010 0x008 0x010) (two 0xFFFFFFFFFFFFFFC4 0xFFFFFFFFFFFFFFC4))
      (fun t => decide (t.memRead 0x010 8 = 0xCBEEA4E1A08AD8C4)) = true := by decide

/-- t3: an operand not below N is accepted. -/
theorem test_tomont_reduces :
    after (exec (.tomont 1 0 0x018 0x008) (two 0xFFFFFFFFFFFFFFFF 0)) (fun t => decide (t.memRead 0x018 8 = 0xD5E)) = true := by
  decide

/-- t6. -/
theorem test_tonorm_reduces :
    after (exec (.tonorm 1 0 0x018 0x008) (two 0xFFFFFFFFFFFFFFFF 0))
      (fun t => decide (t.memRead 0x018 8 = 0x34115B1E5F752702)) = true := by decide

/-- t5: branch B gives 0. -/
theorem test_tonorm_of_modulus :
    after (exec (.tonorm 1 0 0x018 0x010) v8) (fun t => decide (t.memRead 0x018 8 = 0)) = true := by decide

/-- k1. -/
theorem test_setmod_context : after (exec (.setmod 1 2 0x000) v8) (fun t => decide (t.slot 2 = primeContext)) = true := by decide

/-- k5: an even modulus clears a valid slot. -/
theorem test_setmod_even_clears :
    after (exec (.setmod 1 0 0x008) (two 0xFFFFFFFFFFFFFFC4 0))
      (fun t => decide (t.slot 0 = Context.empty) && decide (t.err = 5) && t.sticky) = true := by decide

/-- k11 in one limb: the host's constant behind the modulus is the right one. -/
theorem test_setmodi_right :
    after (exec (.setmodi 1 1 0x000) (two 0xCBEEA4E1A08AD8F3 0)) (fun t => decide (t.slot 1 = primeContext)) = true := by decide

/-- k12 in one limb: one bit off. -/
theorem test_setmodi_wrong :
    after (exec (.setmodi 1 0 0x000) (two 0xCBEEA4E1A08AD8F2 0))
      (fun t => decide (t.slot 0 = Context.empty) && decide (t.err = 5)) = true := by decide

/-- k15. -/
theorem test_clrctx_clears :
    after (exec (.clrctx 0) v8) (fun t => decide (t.slot 0 = Context.empty) && decide (t.err = 0)) = true := by decide

/-! ### The host port (V9) -/

/-- h1 and h3: the 2-byte write lands in bytes 2 and 3. -/
theorem test_bus_little_endian :
    after (step (asked (State.reset.memWrite 0 8 0x1122334455667788) [req .write 0x0002 .two 0xBEEF]))
      (fun t => decide (t.memRead 0 8 = 0x11223344BEEF7788)) = true := by decide

/-- h2. -/
theorem test_bus_narrow_read :
    lastResponse (step (asked (State.reset.memWrite 0 8 0x1122334455667788) [req .read 0x0004 .four 0])) =
      some { resp := .okay, rdata := 0x11223344 } := by decide

/-- h10 and h11: STATUS bit 8 clears STICKY, and ERR stays. -/
theorem test_bus_status_write :
    after (step (asked { State.reset with sticky := true, err := 6 } [statusRequest 0xFF])) (fun t => decide (t.statusWord = 0x106)) =
      true ∧
    after (step (asked { State.reset with sticky := true, err := 6 } [statusRequest 0x100])) (fun t => decide (t.statusWord = 6)) =
      true := by decide

/-- h12: a narrow write to CMD runs nothing. -/
theorem test_bus_narrow_cmd :
    lastResponse (step (asked State.reset [req .write 0x1000 .four 0x11])) = some { resp := .error, rdata := 0 } ∧
    after (step (asked State.reset [req .write 0x1000 .four 0x11]))
      (fun t => decide (t.lastCmd = 0) && decide (t.statusWord = 0)) = true := by decide

theorem test_bus_params :
    lastResponse (step (asked State.reset [req .read 0x1010 .eight 0])) =
      some { resp := .okay, rdata := 0x000000011000040C } := by decide

/-- R363: the outcome shows the last byte of the RAM, and a byte that nothing has written as the free value of log 1. -/
theorem test_observe_every_byte :
    (State.reset.memWrite 0xFFF 1 0xAB).observe.ram[0xFFF] = 0xAB ∧
    State.reset.observe.ram[0x000] = Config.resetRam 0 0x000 := by
  constructor
  · simp [State.memWrite]
  · simp [State.byteAt, State.reset, Memory.load?, Memory.unlisted]

/-! ### The invariant's witness -/

theorem primeContext_sound : primeContext.Sound where
  lenPos := by decide
  lenLe := by decide
  odd := by decide
  topLimb := by decide
  highZero := by decide
  modInvRight := by decide
  r2Right := by decide

/-- The invariant does not look at the events still to come. -/
theorem inv_events {s : State} (h : s.Inv) (events : List HostEvent) : ({ s with pending := events } : State).Inv :=
  ⟨h.ramWf, h.slotSound, h.slotEmpty, h.errLow⟩

/-- A write inside the operand RAM keeps the invariant. -/
theorem inv_memWrite {s : State} (h : s.Inv) (off n v : Nat) (hr : off + n ≤ 4096) : (s.memWrite off n v).Inv where
  ramWf := State.memWrite_wf v h.ramWf hr
  slotSound := by simpa using h.slotSound
  slotEmpty := by simpa using h.slotEmpty
  errLow := by simpa using h.errLow

theorem base_inv : (State.reset.setSlot 0 primeContext).Inv where
  ramWf := by decide
  slotSound := by
    intro k
    match k with
    | 0 => intro _; exact primeContext_sound
    | 1 => intro hk; exact absurd hk (by decide)
    | 2 => intro hk; exact absurd hk (by decide)
    | 3 => intro hk; exact absurd hk (by decide)
  slotEmpty := by decide
  errLow := by decide

/-- Every state built by `two` meets the invariant. -/
theorem two_inv (x y : Nat) : (two x y).Inv :=
  inv_memWrite (inv_memWrite (inv_memWrite base_inv _ _ _ (by decide)) _ _ _ (by decide)) _ _ _ (by decide)

/-! ### Witnesses: inputs that meet the hypotheses of each statement together

`told s w` meets `writesCmd w []` by definition. Bounds are met at the last offset that fits, 4088 for one limb. -/

theorem told_writes (s : State) (w : Word) : (told s w).writesCmd w [] := rfl

theorem witness_DecodeOfEncodeIsTheCommand : Instr.wellFormed (.mulmont 15 3 4095 4095 4095) = true := by decide

theorem witness_EncodeOfDecodeIsTheWord : decode 0x000EE0F40FA03C12 = .ok (.mulmont 12 3 0xFA0 0xF40 0xEE0) := by decide

theorem witness_WordSelectsExactlyTheMatchingRow :
    (told v8 0x4410).writesCmd 0x4410 [] ∧ ∀ o : Opcode, (0x4410 : Word) &&& o.mask ≠ o.pattern :=
  ⟨rfl, fun o => by cases o <;> decide⟩

theorem witness_StepRunsTheDecodedCommand :
    (told v8 0x0000080080180110).writesCmd 0x0000080080180110 [] ∧
    decode 0x0000080080180110 = .ok (.addmod 1 0 0x018 0x008 0x008) := ⟨rfl, by decide⟩

/-- One word for each way to be illegal (R105, R106, R109), and a legal word with every reserved and unused bit 0. -/
theorem witness_IllegalFieldsRaiseIllegalCmd :
    codes v8 [0x04, 0x0F, 0x15, 0x22, 0x4410, 0x8003, 0x0010000000000410, 0x8000000000000003, 0x10101, 0x010000000101,
      0x0103, 0x010003, 0x10000003, 0x010000000003, 0x010000000113, 0x010000000114, 0x1120, 0x010120, 0x1121] =
      List.replicate 19 1 ∧
    codes v8 [0x101, 0x003, 0x0000080080180110] = [0, 0, 0] := by decide

theorem witness_CmpgteComparesIntegers :
    1 ≤ 1 ∧ 12 ≤ 12 ∧ 4088 + 8 * 1 ≤ 4096 ∧ 4000 + 8 * 12 ≤ 4096 := by decide

theorem witness_CselWritesTheSelectedOperand :
    1 ≤ 12 ∧ 12 ≤ 12 ∧ 0 + 8 * 12 ≤ 4096 ∧ 96 + 8 * 12 ≤ 4096 ∧ 4000 + 8 * 12 ≤ 4096 := by decide

/-- Operands below N, the second of them N − 1, with a destination at the end of the RAM; for ADDMOD, SUBMOD and MULMONT. -/
theorem witness_AddmodAndSubmodComputeModN :
    (two 5 0xFFFFFFFFFFFFFFC4).Inv ∧ (two 5 0xFFFFFFFFFFFFFFC4).contextReady 0 1 ∧
    0x008 + 8 * 1 ≤ 4096 ∧ 0x010 + 8 * 1 ≤ 4096 ∧ 4088 + 8 * 1 ≤ 4096 ∧
    (two 5 0xFFFFFFFFFFFFFFC4).memRead 0x008 (8 * 1) < (two 5 0xFFFFFFFFFFFFFFC4).modulus 0 ∧
    (two 5 0xFFFFFFFFFFFFFFC4).memRead 0x010 (8 * 1) < (two 5 0xFFFFFFFFFFFFFFC4).modulus 0 :=
  ⟨two_inv _ _, ⟨by decide, by decide⟩, by decide⟩

/-- The same state serves MULMONT and the expansion of mulmod. -/
theorem witness_MulmontComputesTheMontgomeryProduct :
    (two 0 1).Inv ∧ (two 0 1).contextReady 0 1 ∧ 0x008 + 8 * 1 ≤ 4096 ∧ 0x010 + 8 * 1 ≤ 4096 ∧ 4088 + 8 * 1 ≤ 4096 ∧
    (two 0 1).memRead 0x008 (8 * 1) < (two 0 1).modulus 0 ∧ (two 0 1).memRead 0x010 (8 * 1) < (two 0 1).modulus 0 :=
  ⟨two_inv _ _, ⟨by decide, by decide⟩, by decide⟩

theorem witness_TomontMultipliesByR :
    v8.Inv ∧ v8.contextReady 0 1 ∧ 0x010 + 8 * 1 ≤ 4096 ∧ 4088 + 8 * 1 ≤ 4096 :=
  ⟨two_inv _ _, ⟨by decide, by decide⟩, by decide⟩

theorem witness_TonormDividesByR :
    (two (2 ^ 64 - 1) 0).Inv ∧ (two (2 ^ 64 - 1) 0).contextReady 0 1 ∧ 0x008 + 8 * 1 ≤ 4096 ∧ 4088 + 8 * 1 ≤ 4096 :=
  ⟨two_inv _ _, ⟨by decide, by decide⟩, by decide⟩

theorem witness_SetmodBuildsTheContext :
    1 ≤ 1 ∧ 1 ≤ 12 ∧ 0x000 + 8 * 1 ≤ 4096 ∧ v8.memRead 0x000 (8 * 1) % 2 = 1 ∧
    2 ^ (64 * (1 - 1)) ≤ v8.memRead 0x000 (8 * 1) := by decide

/-- Each clause of SETMODI: the right constant behind the modulus, and a wrong one. -/
theorem witness_SetmodiAcceptsOnlyTheRightConstant :
    1 ≤ 1 ∧ 1 ≤ 12 ∧ 0x000 + 8 * 1 + 8 ≤ 4096 ∧ (two 0xCBEEA4E1A08AD8F3 0).memRead 0x000 (8 * 1) % 2 = 1 ∧
    2 ^ (64 * (1 - 1)) ≤ (two 0xCBEEA4E1A08AD8F3 0).memRead 0x000 (8 * 1) ∧
    ((two 0xCBEEA4E1A08AD8F3 0).memRead 0 8 * (two 0xCBEEA4E1A08AD8F3 0).memRead 8 8 + 1) % 2 ^ 64 = 0 ∧
    ((two 0xCBEEA4E1A08AD8F2 0).memRead 0 8 * (two 0xCBEEA4E1A08AD8F2 0).memRead 8 8 + 1) % 2 ^ 64 ≠ 0 := by decide

theorem witness_TonormUndoesTomont :
    v8.Inv ∧ v8.contextReady 0 1 ∧ 0x008 + 8 * 1 ≤ 4096 ∧ 0x018 + 8 * 1 ≤ 4096 ∧ 4088 + 8 * 1 ≤ 4096 ∧
    v8.memRead 0x008 (8 * 1) < v8.modulus 0 := ⟨two_inv _ _, ⟨by decide, by decide⟩, by decide⟩

theorem witness_MontgomeryPipelineMultiplies :
    (two 5 3).Inv ∧ (two 5 3).contextReady 0 1 ∧
    (0x018 + 8 * 1 ≤ 0x010 ∨ 0x010 + 8 * 1 ≤ 0x018) ∧ (0x018 + 8 * 1 ≤ 0x020 ∨ 0x020 + 8 * 1 ≤ 0x018) ∧
    0x028 + 8 * 1 ≤ 4096 ∧ 4088 + 8 * 1 ≤ 4096 ∧
    (two 5 3).memRead 0x008 (8 * 1) < (two 5 3).modulus 0 ∧ (two 5 3).memRead 0x010 (8 * 1) < (two 5 3).modulus 0 :=
  ⟨two_inv _ _, ⟨by decide, by decide⟩, by decide⟩

theorem witness_ZeroOperandsGiveZero :
    (two 0 0).Inv ∧ (two 0 0).contextReady 0 1 ∧ 0x008 + 8 * 1 ≤ 4096 ∧ 0x010 + 8 * 1 ≤ 4096 ∧ 4088 + 8 * 1 ≤ 4096 ∧
    (two 0 0).memRead 0x008 (8 * 1) = 0 ∧ (two 0 0).memRead 0x010 (8 * 1) = 0 :=
  ⟨two_inv _ _, ⟨by decide, by decide⟩, by decide⟩

theorem witness_MaxAndMinExpansions :
    1 ≤ 1 ∧ 1 ≤ 12 ∧ 0x008 + 8 * 1 ≤ 4096 ∧ 0x010 + 8 * 1 ≤ 4096 ∧ 4088 + 8 * 1 ≤ 4096 := by decide

theorem witness_MulmodExpansionMultiplies :
    (two 5 3).Inv ∧ (two 5 3).contextReady 0 1 ∧ 0x008 + 8 * 1 ≤ 4096 ∧ 0x010 + 8 * 1 ≤ 4096 ∧ 0x010 + 8 * 1 ≤ 4096 ∧
    (two 5 3).memRead 0x008 (8 * 1) < (two 5 3).modulus 0 ∧ (two 5 3).memRead 0x010 (8 * 1) < (two 5 3).modulus 0 :=
  ⟨two_inv _ _, ⟨by decide, by decide⟩, by decide⟩

/-- One word for each clause, in order, with the codes of V8: e11, e1, e2, e3 (one byte too far) beside the last offset that
fits, e4 (the operand is N), and a plain success; for each of the three opcodes. -/
theorem witness_ModularOperatorErrorsInOrder :
    (∀ w : Word, (told v8 w).Inv ∧ (told v8 w).writesCmd w []) ∧
    [0x10, 0x11, 0x12].all (fun o => decide (fieldOpc (0x0000080080180100 ||| BitVec.setWidth 64 o) = o)) = true ∧
    codes v8 [0x0000080080184110, 0x0000080080181110, 0x0000080080180210, 0x000008008FF90110, 0x000008008FF80110,
      0x0000100080180110, 0x0000080080180110] = [1, 2, 3, 4, 0, 6, 0] ∧
    codes v8 [0x0000080080184111, 0x0000080080181111, 0x0000080080180211, 0x000008FF90180111, 0x0000080100180111,
      0x0000080080180111] = [1, 2, 3, 4, 6, 0] ∧
    codes v8 [0x0010080080180112, 0x0000080080181112, 0x0000080080180212, 0x000FF90080180112, 0x0000100080180112,
      0x0000080080180112] = [1, 2, 3, 4, 6, 0] :=
  ⟨fun _ => ⟨inv_events (two_inv _ _) _, rfl⟩, by decide, by decide, by decide, by decide⟩

theorem witness_ConversionErrorsInOrder :
    (∀ w : Word, (told v8 w).Inv ∧ (told v8 w).writesCmd w []) ∧
    codes v8 [0x0000080100180113, 0x0000000100181113, 0x0000000100180213, 0x000000FF90180113, 0x0000000100180113] =
      [1, 2, 3, 4, 0] ∧
    codes v8 [0x0000000100184114, 0x0000000100181114, 0x0000000100180214, 0x000000010FF90114, 0x000000010FF80114] =
      [1, 2, 3, 4, 0] := by
  refine ⟨fun _ => ⟨inv_events (two_inv _ _) _, rfl⟩, by decide, by decide⟩

/-- k10; k7 and k8; k9 beside the last offset that fits; an even modulus; a top limb of zero; k1. -/
theorem witness_SetmodErrorsInOrder :
    codes v8 [0x0000000000100101, 0x0000000000001001, 0x0000000000001D01, 0x000000FA10001C01, 0x0000000000000101] =
      [1, 5, 5, 4, 0] ∧
    codes (two 6 0) [0x0000000080000101] = [5] ∧ codes (two 1 0) [0x0000000080000201] = [5] := by decide

/-- A used DST; LEN 0 and 13; k14; an even modulus; a wrong constant; the right one. -/
theorem witness_SetmodiErrorsInOrder :
    codes v8 [0x0000000000100102, 0x0000000000001002, 0x0000000000001D02, 0x000000FA00003C02, 0x0000000000000102] =
      [1, 5, 5, 4, 5] ∧
    codes (two 6 0) [0x0000000080000102] = [5] ∧ codes (two 0xCBEEA4E1A08AD8F3 0) [0x0000000000000102] = [0] := by decide

/-- ce1 to ce7 of V2, and a CTX field that is used. -/
theorem witness_CompareAndSelectErrorsInOrder :
    codes v8 [0x0000200100001220, 0x0000200100000020, 0x0000200100000D20, 0x000020FF80000220, 0x0000100080000120] =
      [1, 3, 3, 4, 0] ∧
    codes v8 [0x0000200100301221, 0x0000200100300021, 0x0000200100300D21, 0x000060000FA10C21, 0x0000100080180121] =
      [1, 3, 3, 4, 0] := by decide

/-- k15 to k17. -/
theorem witness_ClrctxFailsOnlyInDecode :
    codes v8 [0x0000000000000003, 0x0000000000003003, 0x0000000000000103] = [0, 0, 1] := by decide

/-- A failing word that is no command, one that changes no slot, and one that clears its slot. -/
theorem witness_FailedCommandChangesNothingElse :
    (∃ t, step (told v8 0) = .next t ∧ t.err ≠ 0) ∧ (∃ t, step (told v8 0x0000100080180110) = .next t ∧ t.err ≠ 0) ∧
    (∃ t, step (told v8 0x0000000000000001) = .next t ∧ t.err ≠ 0) :=
  ⟨⟨_, rfl, by decide⟩, ⟨_, rfl, by decide⟩, ⟨_, rfl, by decide⟩⟩

theorem witness_InternalInvariantIsNeverReported :
    v8.Inv ∧ ∃ t, exec (.mulmont 1 0 0x018 0x008 0x008) v8 = .next t := ⟨two_inv _ _, _, rfl⟩

/-- Each case of R308: idle, reset, a failing and a succeeding command, the clearing write, another write. -/
theorem witness_StickyAndErrChangeOnlyAsStated :
    after (step { v8 with sticky := true }) (fun t => t.sticky) = true ∧
    after (step { v8 with sticky := true, pending := [.reset] }) (fun t => !t.sticky && decide (t.err = 0)) = true ∧
    after (step (told v8 0)) (fun t => t.sticky) = true ∧
    after (step (told v8 0x0000080080180110)) (fun t => !t.sticky) = true ∧
    after (step (asked { v8 with sticky := true } [statusRequest 0x100])) (fun t => !t.sticky) = true ∧
    after (step (asked { v8 with sticky := true } [write64 0x000 0x100])) (fun t => t.sticky) = true := by decide

/-- A successful CMPGTE, a failed one, and a command that is neither CMPGTE nor CSEL. -/
theorem witness_GteIsCmpgtesAndCselsAlone :
    (∃ t, exec (.cmpgte 1 0x008 0x010) v8 = .next t ∧ t.err = 0) ∧
    (∃ t, exec (.cmpgte 13 0x008 0x010) { v8 with gte := true } = .next t ∧ t.err ≠ 0) ∧
    (∃ t, exec (.addmod 1 0 0x018 0x008 0x008) v8 = .next t ∧ t.err = 0) :=
  ⟨⟨_, rfl, by decide⟩, ⟨_, rfl, by decide⟩, ⟨_, rfl, by decide⟩⟩

/-- A slot that changes by each context command and by a reset. -/
theorem witness_SlotsChangeOnlyByContextCommands :
    [0x0000000000002101, 0x0000000000000102, 0x0000000000000003].all
      (fun w => after (step (told v8 w)) (fun t => decide (t.slot 0 ≠ v8.slot 0 ∨ t.slot 2 ≠ v8.slot 2))) = true ∧
    after (step { v8 with pending := [.reset] }) (fun t => decide (t.slot 0 ≠ v8.slot 0)) = true := by decide

theorem witness_FrameOfStoringCommands :
    Instr.storedRange (.addmod 1 0 0x018 0x008 0x008) = some (0x018, 8 * 1) ∧
    ∃ t, exec (.addmod 1 0 0x018 0x008 0x008) v8 = .next t ∧ t.err = 0 := ⟨rfl, _, rfl, by decide⟩

theorem witness_FrameOfNonStoringCommands :
    Instr.storedRange (.setmod 1 2 0x000) = none ∧ ∃ t, exec (.setmod 1 2 0x000) v8 = .next t ∧ t.err = 0 :=
  ⟨rfl, _, rfl, by decide⟩

/-- A destination that touches its sources from above and from below. -/
theorem witness_RepeatedPureCommandChangesNothing :
    (0x010 + 8 * 1 ≤ 0x008 ∨ 0x008 + 8 * 1 ≤ 0x010) ∧ (0x000 + 8 * 1 ≤ 0x008 ∨ 0x008 + 8 * 1 ≤ 0x000) ∧
    ∃ t, exec (.addmod 1 0 0x010 0x008 0x008) v8 = .next t ∧ t.err = 0 := ⟨by decide, by decide, _, rfl, by decide⟩

/-- A step that makes a context, one that fails, and one that stores, all from a state that meets the invariant. -/
theorem witness_EveryStepKeepsTheInvariant :
    (told v8 0x0000000000002101).Inv ∧ ∃ t, step (told v8 0x0000000000002101) = .next t ∧ (t.slot 2).valid = true :=
  ⟨inv_events (two_inv _ _) _, _, rfl, by decide⟩

theorem witness_LimbUnitsComputeIntegers :
    ([0xFFFFFFFFFFFFFFFF, 0] : Limbs).length = ([0, 1] : Limbs).length := by decide

/-- Operands at the edge of the condition: X·Y = N·R − N. -/
theorem witness_CiosUnitComputesTheMontgomeryProduct :
    ([0xFFFFFFFFFFFFFFC5] : Limbs).length = 1 ∧ (0xFFFFFFFFFFFFFFC5 * 0xCBEEA4E1A08AD8F3 + 1) % 2 ^ 64 = 0 ∧
    valOf [0xFFFFFFFFFFFFFFFF] * valOf [0xFFFFFFFFFFFFFFC5] < valOf [0xFFFFFFFFFFFFFFC5] * 2 ^ (64 * 1) := by decide

/-- The accumulator is at its largest, N + X − 1. -/
theorem witness_CiosIterationIsExact :
    ({ lo := [0xFFFFFFFFFFFFFFC3], tL := 1, tL1 := 0 } : Acc).tL1 = 0 ∧
    ({ lo := [0xFFFFFFFFFFFFFFC3], tL := 1, tL1 := 0 } : Acc).val + 1 = valOf [0xFFFFFFFFFFFFFFC5] + valOf [0xFFFFFFFFFFFFFFFF] ∧
    (valOf [0xFFFFFFFFFFFFFFC5] * (0xCBEEA4E1A08AD8F3 : Word).toNat + 1) % 2 ^ 64 = 0 := by decide

theorem witness_ModInvIsTheUniqueConstant :
    (0xFFFFFFFFFFFFFFC5 : Word).toNat % 2 = 1 ∧
    ((0xFFFFFFFFFFFFFFC5 : Word).toNat * (0xCBEEA4E1A08AD8F3 : Word).toNat + 1) % 2 ^ 64 = 0 := by decide

theorem witness_LimbConversionsLoseNothing : 2 ^ 128 - 1 < 2 ^ (64 * 2) ∧ 1 < 2 := by decide

theorem witness_BuffersHoldLittleEndianValues : 11 < 12 ∧ 95 < 96 := by decide

/-- Addresses where the clauses meet. The bad ones: misaligned, narrow, and the edges of the holes. The good ones: the last
eight bytes of the RAM, the three registers, the first and last registers of the windows. -/
theorem witness_BadAccessesGetErrorAndChangeNothing :
    [req .read 0x0004 .eight 0, req .read 0x0FFF .two 0, req .write 0x1000 .four 0x11, req .read 0x1008 .four 0,
      req .read 0x1018 .eight 0, req .write 0x10F8 .eight 0, req .read 0x11D0 .eight 0, req .read 0x14F8 .eight 0,
      req .read 0x1500 .eight 0, req .read 0xFFFF .one 0].all
      (fun r => decide (lastResponse (step (asked v8 [r])) = some { resp := .error, rdata := 0 })) = true ∧
    [req .write 0x0FF8 .eight 0, req .write 0x0FFF .one 0, req .read 0x0000 .eight 0, req .read 0x1000 .eight 0,
      req .read 0x1008 .eight 0, req .read 0x1010 .eight 0, req .read 0x1100 .eight 0, req .read 0x11C8 .eight 0,
      req .write 0x1400 .eight 0, req .read 0x14C8 .eight 0].all
      (fun r => decide ((lastResponse (step (asked v8 [r]))).map Response.resp = some .okay)) = true := by decide

theorem witness_ReadsHaveNoSideEffect :
    (asked v8 [req .read 0x1008 .eight 0]).pending = .request (req .read 0x1008 .eight 0) :: [] ∧
    (req .read 0x1008 .eight 0).kind = .read := ⟨rfl, rfl⟩

/-- The last address that a size admits, for a read and a write. -/
theorem witness_HostAccessesToRamAreLittleEndian :
    (asked v8 [req .write 0x0FF8 .eight 1]).pending = .request (req .write 0x0FF8 .eight 1) :: [] ∧
    (req .write 0x0FF8 .eight 1).addr.toNat < 0x1000 ∧ (req .write 0x0FF8 .eight 1).addr.toNat % 8 = 0 ∧
    (asked v8 [req .read 0x0FFF .one 0]).pending = .request (req .read 0x0FFF .one 0) :: [] ∧
    (req .read 0x0FFF .one 0).addr.toNat < 0x1000 := by decide

theorem witness_StatusWriteClearsStickyOnly :
    (asked v8 [statusRequest 0x100]).pending = .request (statusRequest 0x100) :: [] := rfl

theorem witness_StatusReadShowsEveryField : (asked v8 [read64 0x1008]).pending = .request (read64 0x1008) :: [] := rfl

theorem witness_ParamsIsAConstant :
    (asked v8 [read64 0x1010]).pending = .request (read64 0x1010) :: [] ∧
    (asked v8 [write64 0x1010 1]).pending = .request (write64 0x1010 1) :: [] := ⟨rfl, rfl⟩

/-- The first and the last register of a window, read and written, and the hole behind it. -/
theorem witness_ContextWindowsShowTheSlots :
    (asked v8 [read64 0x1100]).pending = .request (read64 (0x1100 + 0x100 * (0 : Slot).val)) :: [] ∧
    (asked v8 [read64 0x14C8]).pending =
      .request (read64 (0x1100 + 0x100 * (3 : Slot).val + 0x70 + 8 * (11 : Fin 12).val)) :: [] ∧
    (asked v8 [write64 0x11C8 1]).pending = .request (write64 (0x1100 + 0x100 * (0 : Slot).val + 8 * 25) 1) :: [] := by decide

theorem witness_CmdReadsBackTheLastWord :
    (asked v8 [commandRequest 0, read64 0x1000]).writesCmd 0 (.request (read64 0x1000) :: []) := rfl

theorem witness_StatusReadGivesTheLastCode :
    (asked v8 [commandRequest 0, read64 0x1008]).writesCmd 0 (.request (read64 0x1008) :: []) := rfl

theorem witness_ResetClearsEveryRegister : ({ v8 with pending := [.reset] } : State).pending = .reset :: [] := rfl

theorem witness_ReadsIgnoreTheirWriteData :
    (asked v8 [read64 0x1008]).pending = .request (read64 0x1008) :: [] ∧ (read64 0x1008).kind = .read := ⟨rfl, rfl⟩

theorem witness_IdleStepChangesNothing : v8.pending = [] := by decide

end Sys2Proof.Tests
end

/-! PROOFS for 00_scope.md. The conversions between integers, limb arrays (R13) and buffers (R14): what each gives on the other. -/

namespace Sys2Proof.Machine

/-! ### Limb arrays -/

@[simp] theorem valOf_nil : valOf [] = 0 := rfl

@[simp] theorem valOf_cons (x : Word) (xs : Limbs) : valOf (x :: xs) = x.toNat + 2 ^ 64 * valOf xs := rfl

@[simp] theorem limbsOf_zero (v : Nat) : limbsOf v 0 = [] := rfl

@[simp] theorem limbsOf_succ (v len : Nat) : limbsOf v (len + 1) = BitVec.ofNat 64 v :: limbsOf (v / 2 ^ 64) len := rfl

theorem two_pow_limbs_succ (len : Nat) : 2 ^ (64 * (len + 1)) = 2 ^ 64 * 2 ^ (64 * len) := by
  rw [Nat.mul_succ, Nat.add_comm, Nat.pow_add]

theorem valOf_lt (a : Limbs) : valOf a < 2 ^ (64 * a.length) := by
  induction a with
  | nil => simp
  | cons x xs ih =>
    have hx := x.isLt
    rw [valOf_cons, List.length_cons, two_pow_limbs_succ]
    omega

/-- `Limbs(v, L)` holds the low 64·L bits of v, whether or not v fits. -/
theorem valOf_limbsOf (v len : Nat) : valOf (limbsOf v len) = v % 2 ^ (64 * len) := by
  induction len generalizing v with
  | zero => simp [Nat.mod_one]
  | succ len ih => rw [limbsOf_succ, valOf_cons, ih, BitVec.toNat_ofNat, two_pow_limbs_succ, Nat.mod_mul]

theorem valOf_limbsOf_of_lt {v len : Nat} (h : v < 2 ^ (64 * len)) : valOf (limbsOf v len) = v := by
  rw [valOf_limbsOf, Nat.mod_eq_of_lt h]

@[simp] theorem limbsOf_valOf (a : Limbs) : limbsOf (valOf a) a.length = a := by
  induction a with
  | nil => rfl
  | cons x xs ih =>
    have hx := x.isLt
    have hlow : BitVec.ofNat 64 (valOf (x :: xs)) = x :=
      BitVec.eq_of_toNat_eq (by rw [valOf_cons, BitVec.toNat_ofNat]; omega)
    have hhigh : valOf (x :: xs) / 2 ^ 64 = valOf xs := by rw [valOf_cons]; omega
    rw [List.length_cons, limbsOf_succ, hlow, hhigh, ih]

/-- Limb i of `Limbs(v, L)` is v[64i+63:64i]. -/
theorem limbsOf_getElem? {v len i : Nat} (h : i < len) :
    (limbsOf v len)[i]? = some (BitVec.ofNat 64 (v / 2 ^ (64 * i))) := by
  induction len generalizing v i with
  | zero => omega
  | succ len ih =>
    cases i with
    | zero => simp
    | succ i =>
      rw [limbsOf_succ, List.getElem?_cons_succ, ih (by omega), Nat.div_div_eq_div_mul, two_pow_limbs_succ]

/-! ### Buffers -/

@[simp] theorem State.memRead_zero (s : State) (off : Nat) : s.memRead off 0 = 0 := rfl

theorem State.memRead_succ (s : State) (off n : Nat) :
    s.memRead off (n + 1) = (s.byteAt off).toNat + 256 * s.memRead (off + 1) n := rfl

theorem State.memWrite_succ (s : State) (off n v : Nat) :
    s.memWrite off (n + 1) v = (s.setByte off (BitVec.ofNat 8 v)).memWrite (off + 1) n (v / 256) := rfl

/-- A buffer of one byte holds that byte. -/
theorem State.memRead_one (s : State) (off : Nat) : s.memRead off 1 = (s.byteAt off).toNat := by
  simp [State.memRead_succ]

/-- A buffer of m + n bytes is a buffer of m bytes and, above it, a buffer of n bytes. -/
theorem State.memRead_add (s : State) (off m n : Nat) :
    s.memRead off (m + n) = s.memRead off m + 256 ^ m * s.memRead (off + m) n := by
  induction m generalizing off with
  | zero => simp
  | succ m ih =>
    rw [show m + 1 + n = m + n + 1 by omega, State.memRead_succ, State.memRead_succ, ih,
      show off + 1 + m = off + (m + 1) by omega, Nat.pow_succ']
    ring

/-- The first bytes of a buffer are its value cut to their number. -/
theorem State.memRead_mod (s : State) (off m n : Nat) : s.memRead off (m + n) % 256 ^ m = s.memRead off m := by
  rw [State.memRead_add, Nat.add_mul_mod_self_left, Nat.mod_eq_of_lt (s.memRead_lt off m)]

/-- The bytes of a buffer from the m-th on are its value shifted down by m bytes. -/
theorem State.memRead_div (s : State) (off m n : Nat) : s.memRead off (m + n) / 256 ^ m = s.memRead (off + m) n := by
  rw [State.memRead_add, Nat.add_mul_div_left _ _ (by positivity), Nat.div_eq_of_lt (s.memRead_lt off m), Nat.zero_add]

/-- The m bytes at place a of an n-byte buffer are bytes a … a+m−1 of its value. -/
theorem State.memRead_slice (s : State) (off : Nat) {a m n : Nat} (h : a + m ≤ n) :
    s.memRead (off + a) m = s.memRead off n / 256 ^ a % 256 ^ m := by
  obtain ⟨r, rfl⟩ := Nat.exists_eq_add_of_le h
  rw [Nat.add_assoc, State.memRead_div, State.memRead_mod]

/-- A buffer reads back what was written to it, cut to its size. -/
theorem State.memRead_memWrite_self (s : State) (off n v : Nat) : (s.memWrite off n v).memRead off n = v % 256 ^ n := by
  induction n generalizing s off v with
  | zero => simp [Nat.mod_one]
  | succ n ih =>
    have hfirst : (s.memWrite off (n + 1) v).byteAt off = BitVec.ofNat 8 v := by
      simpa using s.byteAt_memWrite_inside v (Nat.zero_lt_succ n)
    rw [State.memRead_succ, hfirst, State.memWrite_succ, ih, BitVec.toNat_ofNat, pow_succ' 256 n,
      Nat.mod_mul]

theorem two_pow_limb_place (j : Nat) : 2 ^ (64 * j) = 256 ^ (8 * j) := by
  rw [show 64 * j = 8 * (8 * j) by omega, Nat.pow_mul]

/-! ### The obligations -/

/-- Settles O43: each conversion by induction on the limbs, the low limb being v mod 2^64 and the others v / 2^64. -/
theorem limbConversionsLoseNothing : Obligations.LimbConversionsLoseNothing :=
  ⟨fun _ _ h => valOf_limbsOf_of_lt h, limbsOf_valOf, fun _ _ _ h => limbsOf_getElem? h, valOf_lt⟩

/-- Settles O44: limbs and bytes are both slices of the buffer's value. -/
theorem buffersHoldLittleEndianValues : Obligations.BuffersHoldLittleEndianValues := by
  refine ⟨State.memRead_memWrite_self, fun s off len j hj => ?_, fun s off n b hb => ?_⟩
  · rw [two_pow_limb_place]
    exact s.memRead_slice off (by omega)
  · rw [← s.memRead_one]
    exact (s.memRead_slice off (a := b) (m := 1) (by omega)).symm

end Sys2Proof.Machine

/-! PROOFS for 10_state.md. What a context is made of (R47, R48, R251), and SETMOD. -/

namespace Sys2Proof.Machine

/-! ### MODINV (R252, R257) -/

/-- A Newton step squares the distance of n0·inv from 1. -/
theorem one_sub_mul_newtonStep (n0 inv : Word) : 1 - n0 * newtonStep n0 inv = (1 - n0 * inv) ^ 2 := by
  unfold newtonStep
  ring

/-- An odd word is an inverse of itself modulo 4, where the Newton steps start. -/
theorem four_dvd_one_sub_mul_self {n0 : Word} (hodd : n0.toNat % 2 = 1) : (4 : Word) ∣ 1 - n0 * n0 := by
  obtain ⟨m, hm⟩ : ∃ m, n0.toNat = 2 * m + 1 := ⟨n0.toNat / 2, by omega⟩
  have hn : n0 = 2 * (m : Word) + 1 := by
    apply BitVec.eq_of_toNat_eq
    have := n0.isLt
    simp [BitVec.toNat_add, BitVec.toNat_mul]
    omega
  exact ⟨-((m : Word) * m + m), by rw [hn]; ring⟩

/-- Five Newton steps raise the distance from 1 to its 32nd power, and 4^32 = 0. -/
theorem mul_modInv {n0 : Word} (hodd : n0.toNat % 2 = 1) : n0 * modInv n0 = -1 := by
  obtain ⟨m, hm⟩ := four_dvd_one_sub_mul_self hodd
  have hfour : (4 : Word) ^ 32 = 0 := by decide
  have hdist : 1 + n0 * modInv n0 = 0 := by
    calc 1 + n0 * modInv n0 = 1 - n0 * -modInv n0 := by ring
      _ = (1 - n0 * n0) ^ 32 := by
          rw [modInv, neg_neg]
          simp only [one_sub_mul_newtonStep, ← pow_mul]
      _ = 0 := by rw [hm, mul_pow, hfour, zero_mul]
  rw [eq_neg_iff_add_eq_zero, add_comm]
  exact hdist

/-- MODINV as R252 writes it: n0·v + 1 is a multiple of 2^64. -/
theorem modInv_toNat {n0 : Word} (hodd : n0.toNat % 2 = 1) : (n0.toNat * (modInv n0).toNat + 1) % 2 ^ 64 = 0 := by
  have h : n0 * modInv n0 + 1 = 0 := by rw [mul_modInv hodd]; decide
  simpa [BitVec.toNat_add, BitVec.toNat_mul] using congrArg BitVec.toNat h

/-! ### The context of a modulus -/

theorem padLimbs_toList (a : Limbs) : (padLimbs a).toList = (List.range 12).map (fun j => a.getD j 0) := rfl

@[simp] theorem padLimbs_getElem (a : Limbs) (j : Nat) (h : j < 12) : (padLimbs a)[j] = a.getD j 0 := by
  simp [padLimbs]

theorem padLimbs_toList_getD (a : Limbs) {j : Nat} (h : j < 12) : (padLimbs a).toList.getD j 0 = a.getD j 0 := by
  simp [padLimbs_toList, List.getD_eq_getElem?_getD, h]

/-- The limbs of a modulus read back from a slot's field. -/
theorem padLimbs_take {a : Limbs} (h : a.length ≤ 12) : (padLimbs a).toList.take a.length = a := by
  apply List.ext_getElem
  · simpa using h
  · intro j h1 h2
    simp [padLimbs_toList, h2]

/-- The low word of a limb array is its limb 0. -/
theorem valOf_mod_limb (a : Limbs) : valOf a % 2 ^ 64 = (a.headD 0).toNat := by
  cases a with
  | nil => rfl
  | cons x xs =>
    have hx := x.isLt
    rw [valOf_cons, List.headD_cons]
    omega

theorem r2Of_lt {n : Nat} (h : 0 < n) (len : Nat) : r2Of n len < n := Nat.mod_lt _ h

theorem modulusOk_iff {n : Limbs} :
    modulusOk n = true ↔ (n.headD 0).toNat % 2 = 1 ∧ n.getLastD 0 ≠ 0 := by
  simp [modulusOk]

/-- The modulus check on the limbs of an integer: it is odd and reaches into its top limb. -/
theorem modulusOk_limbsOf_iff {v len : Nat} (hlen : 1 ≤ len) (hv : v < 2 ^ (64 * len)) :
    modulusOk (limbsOf v len) = true ↔ v % 2 = 1 ∧ 2 ^ (64 * (len - 1)) ≤ v := by
  obtain ⟨l, rfl⟩ : ∃ l, len = l + 1 := ⟨len - 1, by omega⟩
  have hfirst : ((limbsOf v (l + 1)).headD 0).toNat % 2 = v % 2 := by
    rw [limbsOf_succ, List.headD_cons, BitVec.toNat_ofNat]
    omega
  have htop : (limbsOf v (l + 1)).getLastD 0 = BitVec.ofNat 64 (v / 2 ^ (64 * l)) := by
    rw [List.getLastD_eq_getLast?, List.getLast?_eq_getElem?, limbsOf_length, Nat.add_sub_cancel,
      limbsOf_getElem? (by omega), Option.getD_some]
  have hfits : v / 2 ^ (64 * l) < 2 ^ 64 := by
    rw [Nat.div_lt_iff_lt_mul (by positivity), ← two_pow_limbs_succ]
    exact hv
  have hzero : BitVec.ofNat 64 (v / 2 ^ (64 * l)) = 0 ↔ v < 2 ^ (64 * l) := by
    rw [← BitVec.toNat_inj, BitVec.toNat_ofNat, Nat.mod_eq_of_lt hfits]
    simp [Nat.div_eq_zero_iff]
  rw [modulusOk_iff, hfirst, htop, ne_eq, hzero, not_lt, Nat.add_sub_cancel]

/-! The five fields of `newContext` for a modulus that the value check accepts. -/

section
variable {n : Limbs} {len : Nat}

theorem newContext_len (ninv : Word) (hmax : len ≤ 12) : (newContext n ninv len).len.toNat = len := by
  simp only [newContext, BitVec.toNat_ofNat]
  omega

theorem newContext_modulus (ninv : Word) (hlen : n.length = len) (hmax : len ≤ 12) :
    (newContext n ninv len).modulus = valOf n := by
  subst hlen
  rw [Context.modulus, newContext_len ninv hmax, Context.modLimbs, newContext, padLimbs_take hmax]

/-- The slot rule (R48) holds of the context of an odd modulus with a non-zero top limb. -/
theorem newContext_sound (hlen : n.length = len) (hmin : 1 ≤ len) (hmax : len ≤ 12) (hok : modulusOk n = true) :
    (newContext n (modInv (n.headD 0)) len).Sound := by
  obtain ⟨hodd, htop⟩ := modulusOk_iff.1 hok
  have hL := newContext_len (n := n) (modInv (n.headD 0)) hmax
  have hN := newContext_modulus (modInv (n.headD 0)) hlen hmax
  have hpos : 0 < valOf n := by
    have := valOf_mod_limb n
    omega
  have hr2 : r2Of (valOf n) len < 2 ^ (64 * len) := (r2Of_lt hpos len).trans (hlen ▸ valOf_lt n)
  have hhead : n.getD 0 0 = n.headD 0 := by cases n <;> rfl
  have hlast : n.getD (len - 1) 0 = n.getLastD 0 := by
    rw [List.getLastD_eq_getLast?, List.getLast?_eq_getElem?, hlen, List.getD_eq_getElem?_getD]
  exact {
    lenPos := by omega
    lenLe := by omega
    odd := by
      rw [newContext, padLimbs_toList_getD n (by omega), hhead]
      exact hodd
    topLimb := by
      rw [hL, newContext, padLimbs_toList_getD n (by omega), hlast]
      exact htop
    highZero := fun j hj => by
      rw [hL] at hj
      simp [newContext, List.getD_eq_getElem?_getD, hlen, hj]
    modInvRight := by
      rw [hN, ← Nat.mod_add_mod, ← Nat.mod_mul_mod, valOf_mod_limb, Nat.mod_add_mod]
      exact modInv_toNat hodd
    r2Right := by
      have htake := padLimbs_take (a := limbsOf (r2Of (valOf n) len) len) (by simpa using hmax)
      rw [limbsOf_length] at htake
      rw [hN, hL, Context.r2Limbs, newContext, htake, valOf_limbsOf_of_lt hr2, r2Of] }

end

theorem State.memRead_limbs_lt (s : State) (off len : Nat) : s.memRead off (8 * len) < 2 ^ (64 * len) := by
  rw [two_pow_limb_place]
  exact s.memRead_lt off (8 * len)

theorem State.valOf_loadOperand (s : State) (off len : Nat) : valOf (s.loadOperand off len) = s.memRead off (8 * len) :=
  valOf_limbsOf_of_lt (s.memRead_limbs_lt off len)

/-- The value check of SETMOD and SETMODI on a buffer. -/
theorem State.modulusOk_loadOperand_iff (s : State) (off : Nat) {len : Nat} (hlen : 1 ≤ len) :
    modulusOk (s.loadOperand off len) = true ↔
      s.memRead off (8 * len) % 2 = 1 ∧ 2 ^ (64 * (len - 1)) ≤ s.memRead off (8 * len) :=
  modulusOk_limbsOf_iff hlen (s.memRead_limbs_lt off len)

/-- The context that SETMOD makes of the modulus in a buffer (R251). -/
def State.bufferContext (s : State) (len src1 : Nat) : Context :=
  newContext (s.loadOperand src1 len) (modInv ((s.loadOperand src1 len).headD 0)) len

section
variable {s : State} {len src1 : Nat}

theorem State.bufferContext_valid : (s.bufferContext len src1).valid = true := rfl

theorem State.bufferContext_len (hmax : len ≤ 12) : (s.bufferContext len src1).len.toNat = len := newContext_len _ hmax

theorem State.bufferContext_modulus (hmax : len ≤ 12) :
    (s.bufferContext len src1).modulus = s.memRead src1 (8 * len) :=
  (newContext_modulus _ (s.loadOperand_length src1 len) hmax).trans (s.valOf_loadOperand src1 len)

theorem State.bufferContext_sound (hmin : 1 ≤ len) (hmax : len ≤ 12) (hok : modulusOk (s.loadOperand src1 len) = true) :
    (s.bufferContext len src1).Sound :=
  newContext_sound (s.loadOperand_length src1 len) hmin hmax hok

/-- SETMOD completes when every check of R255 holds. -/
theorem exec_setmod_ok (k : Slot) (hmin : 1 ≤ len) (hmax : len ≤ 12) (hrange : src1 + 8 * len ≤ 4096)
    (hok : modulusOk (s.loadOperand src1 len) = true) :
    exec (.setmod len k src1) s = .next (s.setSlot k (s.bufferContext len src1)).succeed := by
  have hbody : setmodBody len k src1 s = .ok (s.setSlot k (s.bufferContext len src1)) := by
    simp only [setmodBody, checkLimbCount_eq_ok, checkRange_eq_ok, require_eq_ok]
    exact ⟨⟨hmin, hmax⟩, hrange, hok, rfl⟩
  simp only [exec, execSetmod, hbody, finish_ok]

end

/-- Settles O13: the value check reads off the modulus, and `newContext` of it meets every point of the slot rule. -/
theorem setmodBuildsTheContext : Obligations.SetmodBuildsTheContext := by
  intro s len k src1 hmin hmax hrange hodd htop
  have hok := (s.modulusOk_loadOperand_iff src1 hmin).2 ⟨hodd, htop⟩
  exact ⟨s.bufferContext len src1, State.bufferContext_valid, State.bufferContext_len hmax,
    State.bufferContext_modulus hmax, State.bufferContext_sound hmin hmax hok, exec_setmod_ok k hmin hmax hrange hok⟩

end Sys2Proof.Machine

/-! PROOFS for 10_state.md. What a command and a step change, and the invariant (R36 to R38, R48 to R51, R55). -/

namespace Sys2Proof.Machine

/-! ### What the operations leave alone -/

@[simp] theorem State.slot_succeed (s : State) (k : Slot) : s.succeed.slot k = s.slot k := rfl
@[simp] theorem State.slot_raise (s : State) (c : ErrCode) (k : Slot) : (s.raise c).slot k = s.slot k := rfl
@[simp] theorem State.slot_respond (s : State) (r : Resp) (d : Word) (k : Slot) : (s.respond r d).slot k = s.slot k := rfl
@[simp] theorem State.slot_setGte (s : State) (g : Bool) (k : Slot) : (s.setGte g).slot k = s.slot k := rfl
@[simp] theorem State.slot_storeOperand (s : State) (off len : Nat) (a : Limbs) (k : Slot) :
    (s.storeOperand off len a).slot k = s.slot k := s.slot_memWrite off (8 * len) (valOf a) k

/-- The state an error is taken in differs from the state before the command in the slots alone. -/
theorem failedState_eq (i : Instr) (s : State) : failedState i s = { s with ctx := (failedState i s).ctx } := by
  unfold failedState
  split <;> rfl

@[simp] theorem failedState_ram (i : Instr) (s : State) : (failedState i s).ram = s.ram := by rw [failedState_eq]
@[simp] theorem failedState_gte (i : Instr) (s : State) : (failedState i s).gte = s.gte := by rw [failedState_eq]
@[simp] theorem failedState_sticky (i : Instr) (s : State) : (failedState i s).sticky = s.sticky := by
  rw [failedState_eq]
@[simp] theorem failedState_lastCmd (i : Instr) (s : State) : (failedState i s).lastCmd = s.lastCmd := by
  rw [failedState_eq]
@[simp] theorem failedState_pending (i : Instr) (s : State) : (failedState i s).pending = s.pending := by
  rw [failedState_eq]
@[simp] theorem failedState_responses (i : Instr) (s : State) : (failedState i s).responses = s.responses := by
  rw [failedState_eq]
@[simp] theorem failedState_ramDraw (i : Instr) (s : State) : (failedState i s).ramDraw = s.ramDraw := by
  rw [failedState_eq]

/-- Only SETMOD and SETMODI clear a slot on an error, and they name it as the slot they write. -/
theorem Instr.writtenSlot_of_setsContext {i : Instr} {k : Slot} (h : i.setsContext = some k) : i.writtenSlot = some k := by
  cases i <;> simp_all [Instr.setsContext, Instr.writtenSlot]

theorem failedState_slot {i : Instr} {k : Slot} (s : State) (h : i.writtenSlot ≠ some k) :
    (failedState i s).slot k = s.slot k := by
  unfold failedState
  split
  · rename_i j hj
    exact s.slot_clearSlot_other fun e => h (e ▸ Instr.writtenSlot_of_setsContext hj)
  · rfl

/-- A command that stores to the RAM writes no slot, on success or on an error. -/
theorem Instr.writtenSlot_of_storedRange {i : Instr} {r : Nat × Nat} (h : i.storedRange = some r) :
    i.writtenSlot = none := by
  cases i <;> simp_all [Instr.storedRange, Instr.writtenSlot]

/-! ### What one command keeps -/

section
variable {i : Instr} {s t : State}

/-- No command touches the host's lists, LASTCMD or the draw of the RAM. -/
theorem exec_host_fields (h : exec i s = .next t) :
    t.lastCmd = s.lastCmd ∧ t.pending = s.pending ∧ t.responses = s.responses ∧ t.ramDraw = s.ramDraw := by
  rcases exec_cases h with ⟨c, -, rfl⟩ | ⟨dst, len, a, -, -, rfl⟩ | ⟨k, c, -, -, -, rfl⟩ | ⟨len, a, b, -, rfl⟩
  · simp
  · simp [State.storeOperand_eq]
  · simp
  · simp

/-- An error sets STICKY, whatever it was. -/
theorem State.sticky_raise_eq (s : State) {c : ErrCode} (hc : c ≠ .ok) :
    (s.raise c).sticky = (s.sticky || decide ((s.raise c).err ≠ 0)) := by
  rw [State.raise_sticky, State.raise_err, decide_eq_true (ErrCode.code_ne_zero hc), Bool.or_true]

/-- STICKY is set by a failing command and kept by a successful one (R38, R302). -/
theorem exec_sticky (h : exec i s = .next t) : t.sticky = (s.sticky || decide (t.err ≠ 0)) := by
  rcases exec_cases h with ⟨c, hc, rfl⟩ | ⟨dst, len, a, -, -, rfl⟩ | ⟨k, c, -, -, -, rfl⟩ | ⟨len, a, b, -, rfl⟩
  · rw [State.sticky_raise_eq _ hc, failedState_sticky]
  · simp [State.storeOperand_eq]
  · simp
  · simp

theorem exec_sticky_of_ok (h : exec i s = .next t) (he : t.err = 0) : t.sticky = s.sticky := by
  simpa [he] using exec_sticky h

theorem exec_err_le_seven (h : exec i s = .next t) : t.err.toNat ≤ 7 := by
  rcases exec_cases h with ⟨c, -, rfl⟩ | ⟨dst, len, a, -, -, rfl⟩ | ⟨k, c, -, -, -, rfl⟩ | ⟨len, a, b, -, rfl⟩
  · exact c.code_le_seven
  · simp
  · simp
  · simp

/-- GTE changes in a successful CMPGTE alone (R36). -/
theorem exec_gte (h : exec i s = .next t) (hi : i.isCmpgte = false ∨ t.err ≠ 0) : t.gte = s.gte := by
  rcases exec_cases h with ⟨c, -, rfl⟩ | ⟨dst, len, a, -, -, rfl⟩ | ⟨k, c, -, -, -, rfl⟩ | ⟨len, a, b, rfl, rfl⟩
  · simp
  · simp [State.storeOperand_eq]
  · simp
  · simp [Instr.isCmpgte] at hi

/-- A command writes no slot but the one it names (R50). -/
theorem exec_slot {k : Slot} (h : exec i s = .next t) (hk : i.writtenSlot ≠ some k) : t.slot k = s.slot k := by
  rcases exec_cases h with ⟨c, -, rfl⟩ | ⟨dst, len, a, -, -, rfl⟩ | ⟨j, c, -, hj, -, rfl⟩ | ⟨len, a, b, -, rfl⟩
  · exact failedState_slot s hk
  · simp
  · exact s.slot_setSlot_other c fun e => hk (e ▸ hj)
  · rfl

/-- A command that stores nothing leaves the RAM alone (R78). -/
theorem exec_ram (h : exec i s = .next t) (hi : i.storedRange = none) : t.ram = s.ram := by
  rcases exec_cases h with ⟨c, -, rfl⟩ | ⟨dst, len, a, hr, -, rfl⟩ | ⟨k, c, -, -, -, rfl⟩ | ⟨len, a, b, -, rfl⟩
  · simp
  · simp [hi] at hr
  · simp
  · simp

/-- A command that stores writes no byte outside its range (R87). -/
theorem exec_byteAt_outside {dst n a : Nat} (h : exec i s = .next t) (hi : i.storedRange = some (dst, n))
    (ha : a < dst ∨ dst + n ≤ a) : t.byteAt a = s.byteAt a := by
  rcases exec_cases h with ⟨c, -, rfl⟩ | ⟨d, len, x, hr, -, rfl⟩ | ⟨k, c, hr, -, -, rfl⟩ | ⟨len, x, y, rfl, rfl⟩
  · exact State.byteAt_congr (by simp) (by simp) a
  · obtain ⟨rfl, rfl⟩ : d = dst ∧ 8 * len = n := by simpa [hr] using hi
    exact s.byteAt_memWrite_outside (valOf x) ha
  · simp [hr] at hi
  · simp [Instr.storedRange] at hi

/-- Every command keeps the canonical form of the memory: a store is within bounds. -/
theorem exec_ram_wf (h : exec i s = .next t) (hs : Memory.wf s.ram = true) : Memory.wf t.ram = true := by
  rcases exec_cases h with ⟨c, -, rfl⟩ | ⟨dst, len, a, -, hb, rfl⟩ | ⟨k, c, -, -, -, rfl⟩ | ⟨len, a, b, -, rfl⟩
  · simpa using hs
  · exact State.memWrite_wf (valOf a) hs hb
  · exact hs
  · exact hs

/-- What a context command leaves in its slot: nothing, or a sound context (R251, R256, R261). -/
theorem exec_writtenSlot {k : Slot} (h : exec i s = .next t) (hk : i.writtenSlot = some k) :
    t.slot k = Context.empty ∨ ((t.slot k).valid = true ∧ (t.slot k).Sound) := by
  have hnew : ∀ {len a : Nat}, 1 ≤ len → len ≤ 12 → modulusOk (s.loadOperand a len) = true →
      let u := (s.setSlot k (s.bufferContext len a)).succeed
      u.slot k = Context.empty ∨ ((u.slot k).valid = true ∧ (u.slot k).Sound) := fun h1 h2 hok => by
    simp only [State.slot_succeed, State.slot_setSlot_self]
    exact .inr ⟨State.bufferContext_valid, State.bufferContext_sound h1 h2 hok⟩
  cases i with
  | setmod len j a =>
    obtain rfl : j = k := by simpa [Instr.writtenSlot] using hk
    rcases finish_cases h with ⟨u, hu, rfl⟩ | ⟨c, -, rfl⟩
    · obtain ⟨h1, h2, -, hok, rfl⟩ := setmodBody_ok hu
      exact hnew h1 h2 hok
    · exact .inl (by simp)
  | setmodi len j a =>
    obtain rfl : j = k := by simpa [Instr.writtenSlot] using hk
    rcases finish_cases h with ⟨u, hu, rfl⟩ | ⟨c, -, rfl⟩
    · obtain ⟨h1, h2, -, hok, -, rfl⟩ := setmodiBody_ok hu
      exact hnew h1 h2 hok
    · exact .inl (by simp)
  | clrctx j =>
    obtain rfl : j = k := by simpa [Instr.writtenSlot] using hk
    obtain rfl : (s.clearSlot j).succeed = t := by simpa [exec, execClrctx] using h
    exact .inl (by simp)
  | addmod | submod | mulmont | tomont | tonorm | cmpgte | csel => simp [Instr.writtenSlot] at hk

end

/-- Settles O32: each field by what `exec` can answer; a storing command names no slot to write. -/
theorem frameOfStoringCommands : Obligations.FrameOfStoringCommands := by
  intro i s t dst n hi h
  obtain ⟨hlast, hpend, hresp, hdraw⟩ := exec_host_fields h
  have hgte : i.isCmpgte = false := by cases i <;> simp_all [Instr.storedRange, Instr.isCmpgte]
  have hslot : ∀ k, t.slot k = s.slot k := fun k => exec_slot h (by simp [Instr.writtenSlot_of_storedRange hi])
  have hctx : t.ctx = s.ctx := Vector.ext fun k hk => hslot ⟨k, hk⟩
  exact ⟨fun a => exec_byteAt_outside h hi, hctx, exec_gte h (.inl hgte), hlast, hpend, hresp, hdraw, exec_sticky_of_ok h⟩

/-- Settles O33: each field by what `exec` can answer. -/
theorem frameOfNonStoringCommands : Obligations.FrameOfNonStoringCommands := by
  intro i s t hi h
  obtain ⟨hlast, hpend, hresp, hdraw⟩ := exec_host_fields h
  have hram := exec_ram h hi
  exact ⟨State.byteAt_congr hram hdraw, hram, hdraw, fun k => exec_slot h, fun hc => exec_gte h (.inl hc), hlast, hpend,
    hresp, exec_sticky_of_ok h⟩

/-! ### The address map -/

/-- The three checks of R95. -/
theorem Request.accepted_iff (r : Request) :
    r.accepted = true ↔
      r.addr.toNat % r.size.bytes = 0 ∧ targetOf r.addr ≠ .reserved ∧ (targetOf r.addr).sizeOk r.size = true := by
  unfold Request.accepted
  split <;> simp_all

/-- A context window holds the registers of its slot and, above them, reserved bytes (R43 to R46). -/
theorem windowTarget_cases (k : Slot) (off : Nat) :
    windowTarget k off = .ctxCfg k ∨ windowTarget k off = .ctxModInv k ∨ (∃ j, windowTarget k off = .ctxMod k j) ∨
    (∃ j, windowTarget k off = .ctxR2 k j) ∨ (windowTarget k off = .reserved ∧ 0xD0 ≤ off) := by
  unfold windowTarget
  split_ifs <;> simp
  omega

/-- The context windows end the address map: below them are the RAM, the three registers and a hole (R82). -/
theorem targetOf_cases (a : BitVec 16) :
    (a.toNat < 0x1000 ∧ targetOf a = .ram a.toNat) ∨
    (0x1000 ≤ a.toNat ∧ a.toNat < 0x1008 ∧ targetOf a = .cmd) ∨
    (0x1008 ≤ a.toNat ∧ a.toNat < 0x1010 ∧ targetOf a = .status) ∨
    (0x1010 ≤ a.toNat ∧ a.toNat < 0x1018 ∧ targetOf a = .params) ∨
    (0x1018 ≤ a.toNat ∧ ((∃ k off, targetOf a = windowTarget k off) ∨ targetOf a = .reserved)) := by
  simp only [targetOf]
  split_ifs
  · exact .inl ⟨‹_›, rfl⟩
  · exact .inr (.inl ⟨by omega, ‹_›, rfl⟩)
  · exact .inr (.inr (.inl ⟨by omega, ‹_›, rfl⟩))
  · exact .inr (.inr (.inr (.inl ⟨by omega, ‹_›, rfl⟩)))
  · exact .inr (.inr (.inr (.inr ⟨by omega, .inr rfl⟩)))
  · exact .inr (.inr (.inr (.inr ⟨by omega, .inl ⟨_, _, rfl⟩⟩)))
  · exact .inr (.inr (.inr (.inr ⟨by omega, .inr rfl⟩)))

theorem targetOf_eq_cmd_iff {a : BitVec 16} : targetOf a = .cmd ↔ 0x1000 ≤ a.toNat ∧ a.toNat < 0x1008 := by
  have hwindow := windowTarget_cases
  have hmap := targetOf_cases a
  grind

theorem targetOf_eq_status_iff {a : BitVec 16} : targetOf a = .status ↔ 0x1008 ≤ a.toNat ∧ a.toNat < 0x1010 := by
  have hwindow := windowTarget_cases
  have hmap := targetOf_cases a
  grind

/-- An 8-byte access is accepted at the aligned addresses of the map (R76, R83). -/
theorem Request.accepted_eight_iff {kind : AccessKind} {addr : BitVec 16} {wdata : Word} :
    Request.accepted { kind := kind, addr := addr, size := .eight, wdata := wdata } = true ↔
      addr.toNat % 8 = 0 ∧ targetOf addr ≠ .reserved := by
  have hsize : targetOf addr ≠ .reserved → (targetOf addr).sizeOk .eight = true := by
    cases targetOf addr <;> simp [Target.sizeOk]
  rw [Request.accepted_iff]
  exact ⟨fun ⟨ha, hr, _⟩ => ⟨ha, hr⟩, fun ⟨ha, hr⟩ => ⟨ha, hr, hsize hr⟩⟩

/-- An accepted access to anything but the RAM has 8 bytes (R76). -/
theorem Request.size_of_accepted {r : Request} (h : r.accepted = true) (hram : ∀ off, targetOf r.addr ≠ .ram off) :
    r.size = .eight := by
  obtain ⟨-, -, hsize⟩ := r.accepted_iff.1 h
  cases ht : targetOf r.addr <;> simp_all [Target.sizeOk]

/-- The accepted writes to a register are the 8-byte writes to its own address. -/
theorem Request.eq_register_write_iff {r : Request} {addr : BitVec 16} {t : Target}
    (hmap : ∀ a : BitVec 16, targetOf a = t ↔ addr.toNat ≤ a.toNat ∧ a.toNat < addr.toNat + 8)
    (halign : addr.toNat % 8 = 0) (hram : ∀ off, t ≠ .ram off) (hres : t ≠ .reserved) :
    r = { kind := .write, addr := addr, size := .eight, wdata := r.wdata } ↔
      r.accepted = true ∧ r.kind = .write ∧ targetOf r.addr = t := by
  constructor
  · intro h
    have hself : targetOf addr = t := (hmap addr).2 ⟨le_refl _, by omega⟩
    rw [h]
    exact ⟨Request.accepted_eight_iff.2 ⟨halign, hself ▸ hres⟩, rfl, hself⟩
  · rintro ⟨ha, hk, ht⟩
    have hsize := Request.size_of_accepted ha (ht ▸ hram)
    obtain ⟨kind, a, size, wdata⟩ := r
    subst hsize hk
    obtain ⟨hmod, -⟩ := Request.accepted_eight_iff.1 ha
    obtain ⟨hlow, hhigh⟩ := (hmap a).1 ht
    obtain rfl : a = addr := BitVec.eq_of_toNat_eq (by omega)
    rfl

theorem Request.eq_commandRequest_iff {r : Request} :
    r = commandRequest r.wdata ↔ r.accepted = true ∧ r.kind = .write ∧ targetOf r.addr = .cmd :=
  Request.eq_register_write_iff (addr := 0x1000) (fun _ => targetOf_eq_cmd_iff) (by decide) (by simp) (by simp)

theorem Request.eq_statusRequest_iff {r : Request} :
    r = statusRequest r.wdata ↔ r.accepted = true ∧ r.kind = .write ∧ targetOf r.addr = .status :=
  Request.eq_register_write_iff (addr := 0x1008) (fun _ => targetOf_eq_status_iff) (by decide) (by simp) (by simp)

/-! ### What a plain write changes -/

/-- A plain write touches the RAM or STICKY (R71, R38, R84). -/
theorem State.writeTarget_eq (s : State) (size : AccessSize) (w : Word) (t : Target) :
    s.writeTarget size w t = { s with ram := (s.writeTarget size w t).ram, sticky := (s.writeTarget size w t).sticky } := by
  cases t with
  | ram off => rw [State.writeTarget, State.memWrite_sticky, ← State.memWrite_eq]
  | cmd | status | params | ctxCfg | ctxModInv | ctxMod | ctxR2 | reserved => rfl

@[simp] theorem State.writeTarget_ctx (s : State) (size : AccessSize) (w : Word) (t : Target) :
    (s.writeTarget size w t).ctx = s.ctx := by rw [State.writeTarget_eq]

@[simp] theorem State.writeTarget_err (s : State) (size : AccessSize) (w : Word) (t : Target) :
    (s.writeTarget size w t).err = s.err := by rw [State.writeTarget_eq]

/-- A plain write clears STICKY in STATUS alone (R38). -/
theorem State.writeTarget_sticky (s : State) (size : AccessSize) (w : Word) (t : Target) :
    (s.writeTarget size w t).sticky = if t = .status then s.sticky && !w.getLsbD 8 else s.sticky := by
  cases t with
  | ram off => exact s.memWrite_sticky off size.bytes w.toNat
  | cmd | status | params | ctxCfg | ctxModInv | ctxMod | ctxR2 | reserved => rfl

/-- An accepted access to the RAM lies inside it: it is aligned (R76). -/
theorem Request.ram_inBounds {r : Request} {off : Nat} (h : r.accepted = true) (ht : targetOf r.addr = .ram off) :
    off + r.size.bytes ≤ 4096 := by
  obtain ⟨halign, -⟩ := r.accepted_iff.1 h
  obtain ⟨hlow, rfl⟩ : r.addr.toNat < 0x1000 ∧ r.addr.toNat = off := by
    have hwindow := windowTarget_cases
    have hmap := targetOf_cases r.addr
    grind
  cases hs : r.size <;> rw [hs, AccessSize.bytes] at halign <;> simp only [AccessSize.bytes] <;> omega

theorem State.writeTarget_ram_wf {s : State} {r : Request} (h : r.accepted = true) (hs : Memory.wf s.ram = true) :
    Memory.wf (s.writeTarget r.size r.wdata (targetOf r.addr)).ram = true := by
  cases ht : targetOf r.addr with
  | ram off => exact State.memWrite_wf _ hs (Request.ram_inBounds h ht)
  | cmd | status | params | ctxCfg | ctxModInv | ctxMod | ctxR2 | reserved => exact hs

/-! ### What one step does -/

theorem step_reset {s : State} {rest : List HostEvent} (h : s.pending = .reset :: rest) :
    step s = .next ({ s with pending := rest } : State).applyReset := by
  simp only [step, h]

theorem step_request {s : State} {r : Request} {rest : List HostEvent} (h : s.pending = .request r :: rest) :
    step s = serve r { s with pending := rest } := by
  simp only [step, h]

theorem step_of_decode_ok {s : State} {w : Word} {rest : List HostEvent} {i : Instr} (h : s.writesCmd w rest)
    (hd : decode w = .ok i) : step s = exec i (s.acceptCmd w rest) := by
  rw [step_request h, serve_commandRequest, execute, hd]
  rfl

theorem step_of_decode_error {s : State} {w : Word} {rest : List HostEvent} {e : Reject} (h : s.writesCmd w rest)
    (hd : decode w = .error e) : step s = .next ((s.acceptCmd w rest).raise .illegalCmd) := by
  rw [step_request h, serve_commandRequest, execute, hd]
  rfl

/-- What one step can do, with every write to CMD told apart from the other transactions. -/
inductive StepCase (s : State) : State → Prop where
  | idle : s.pending = [] → StepCase s s
  | reset {rest : List HostEvent} : s.pending = .reset :: rest → StepCase s ({ s with pending := rest } : State).applyReset
  | command {w : Word} {rest : List HostEvent} {i : Instr} {t : State} : s.writesCmd w rest → decode w = .ok i →
      exec i (s.acceptCmd w rest) = .next t → StepCase s t
  | illegal {w : Word} {rest : List HostEvent} : s.writesCmd w rest → StepCase s ((s.acceptCmd w rest).raise .illegalCmd)
  /-- A read, or a request that is answered with ERROR. -/
  | answer {r : Request} {rest : List HostEvent} (resp : Resp) (d : Word) : s.pending = .request r :: rest →
      (r.accepted = true → r.kind = .read) → StepCase s (({ s with pending := rest } : State).respond resp d)
  /-- A write to the RAM or to a register but CMD. -/
  | write {r : Request} {rest : List HostEvent} : s.pending = .request r :: rest → r.accepted = true → r.kind = .write →
      targetOf r.addr ≠ .cmd →
      StepCase s ((({ s with pending := rest } : State).writeTarget r.size r.wdata (targetOf r.addr)).respond .okay 0)

theorem stepCase_of_step {s t : State} (h : step s = .next t) : StepCase s t := by
  rcases step_cases h with ⟨hp, rfl⟩ | ⟨rest, hp, rfl⟩ | ⟨r, rest, hp, hserve⟩
  · exact .idle hp
  · exact .reset hp
  · rcases serve_cases hserve with ⟨ha, rfl⟩ | ⟨-, hk, rfl⟩ | ⟨ha, hk, ht, rfl⟩ | ⟨i, ha, hk, ht, hd, hexec⟩ |
      ⟨e, ha, hk, ht, -, rfl⟩
    · exact .answer .error 0 hp (by simp [ha])
    · exact .answer .okay _ hp fun _ => hk
    · exact .write hp ha hk ht
    · have hcmd := Request.eq_commandRequest_iff.2 ⟨ha, hk, ht⟩
      exact .command (hcmd ▸ hp) hd hexec
    · have hcmd := Request.eq_commandRequest_iff.2 ⟨ha, hk, ht⟩
      exact .illegal (hcmd ▸ hp)

/-- Settles O31: of what a step can do, only a reset and a command write a slot, and a command only the one it names. -/
theorem slotsChangeOnlyByContextCommands : Obligations.SlotsChangeOnlyByContextCommands := by
  intro s t k h hne
  cases stepCase_of_step h with
  | idle => exact absurd rfl hne
  | reset hp => exact .inl ⟨_, hp⟩
  | command hw hd hexec =>
    refine .inr ⟨_, _, _, hw, hd, ?_⟩
    by_contra hk
    have hkept : t.slot k = (s.acceptCmd _ _).slot k := exec_slot hexec hk
    exact hne hkept
  | illegal => exact absurd rfl hne
  | answer => exact absurd rfl hne
  | write => exact absurd (State.slot_congr (by simp) k) hne

/-- Settles O29: STICKY and ERR in each of the things a step can do. -/
theorem stickyAndErrChangeOnlyAsStated : Obligations.StickyAndErrChangeOnlyAsStated := by
  intro s t h
  cases stepCase_of_step h with
  | idle hp => simp [hp]
  | reset hp => simp [hp]
  | command hw hd hexec =>
    have hp : s.pending = _ := hw
    refine ⟨?_, .inr (.inr ⟨_, _, hw⟩)⟩
    rw [hp, exec_sticky hexec]
    exact (if_pos rfl).symm
  | @illegal w rest hw =>
    have hp : s.pending = _ := hw
    refine ⟨?_, .inr (.inr ⟨w, rest, hw⟩)⟩
    rw [hp, State.sticky_raise_eq _ (by decide)]
    exact (if_pos rfl).symm
  | @answer r rest resp d hp hread =>
    have hnot : ¬(r.accepted = true ∧ r.kind = .write) := fun ⟨ha, hk⟩ => by simp [hread ha] at hk
    have hcmd : r ≠ commandRequest r.wdata := fun e =>
      let ⟨ha, hk, _⟩ := Request.eq_commandRequest_iff.1 e
      hnot ⟨ha, hk⟩
    have hstatus : r ≠ statusRequest r.wdata := fun e =>
      let ⟨ha, hk, _⟩ := Request.eq_statusRequest_iff.1 e
      hnot ⟨ha, hk⟩
    refine ⟨?_, .inl rfl⟩
    rw [hp]
    exact ((if_neg hcmd).trans (if_neg hstatus)).symm
  | @write r rest hp ha hk ht =>
    have hcmd : r ≠ commandRequest r.wdata := fun e => ht (Request.eq_commandRequest_iff.1 e).2.2
    have hstatus : r = statusRequest r.wdata ↔ targetOf r.addr = .status := by
      simp only [Request.eq_statusRequest_iff, ha, hk, true_and]
    refine ⟨?_, .inl (by simp)⟩
    rw [hp, State.respond_sticky, State.writeTarget_sticky]
    simp only [hcmd, hstatus, ↓reduceIte]

/-! ### The invariant -/

/-- A slot that holds nothing, or a sound context (R48, R49). -/
theorem State.Inv.slot_cases {s : State} (h : s.Inv) (k : Slot) :
    s.slot k = Context.empty ∨ ((s.slot k).valid = true ∧ (s.slot k).Sound) := by
  cases hv : (s.slot k).valid with
  | false => exact .inl (h.slotEmpty k hv)
  | true => exact .inr ⟨rfl, h.slotSound k hv⟩

/-- The invariant from its parts, the slots taken one by one. -/
theorem State.Inv.of_slots {s : State} (hram : Memory.wf s.ram = true) (herr : s.err.toNat ≤ 7)
    (hslot : ∀ k, s.slot k = Context.empty ∨ ((s.slot k).valid = true ∧ (s.slot k).Sound)) : s.Inv where
  ramWf := hram
  slotSound k hv := by
    rcases hslot k with he | ⟨-, hs⟩
    · simp [he, Context.empty] at hv
    · exact hs
  slotEmpty k hv := by
    rcases hslot k with he | ⟨ht, -⟩
    · exact he
    · simp [hv] at ht
  errLow := herr

/-- The invariant looks at the memory, the slots and ERR alone. -/
theorem State.Inv.congr {s t : State} (h : s.Inv) (hram : Memory.wf t.ram = true) (hctx : t.ctx = s.ctx)
    (herr : t.err.toNat ≤ 7) : t.Inv :=
  .of_slots hram herr fun k => by
    rw [State.slot_congr hctx]
    exact h.slot_cases k

theorem State.Inv.acceptCmd {s : State} (h : s.Inv) (w : Word) (rest : List HostEvent) : (s.acceptCmd w rest).Inv :=
  h.congr h.ramWf rfl h.errLow

/-- The state after reset, with any events, responses and draw. -/
theorem State.Inv.applyReset (s : State) : s.applyReset.Inv :=
  .of_slots Memory.wf_nil (by simp) fun k => .inl (s.slot_applyReset k)

/-- Every command keeps the invariant. -/
theorem exec_inv {i : Instr} {s t : State} (hs : s.Inv) (h : exec i s = .next t) : t.Inv := by
  refine .of_slots (exec_ram_wf h hs.ramWf) (exec_err_le_seven h) fun k => ?_
  by_cases hk : i.writtenSlot = some k
  · exact exec_writtenSlot h hk
  · rw [exec_slot h hk]
    exact hs.slot_cases k

/-- Settles O35: every slot is empty, no byte is listed and ERR is 0. -/
theorem resetMeetsTheInvariant : Obligations.ResetMeetsTheInvariant :=
  .of_slots Memory.wf_nil (by simp [State.reset]) fun k => .inl (State.slot_reset k)

/-- Settles O36: each of the things a step can do keeps the invariant; a command by `exec_inv`. -/
theorem everyStepKeepsTheInvariant : Obligations.EveryStepKeepsTheInvariant := by
  intro s t hs h
  cases stepCase_of_step h with
  | idle => exact hs
  | reset => exact .applyReset _
  | command _ _ hexec => exact exec_inv (hs.acceptCmd _ _) hexec
  | illegal => exact hs.congr hs.ramWf rfl (ErrCode.code_le_seven _)
  | answer => exact hs.congr hs.ramWf rfl hs.errLow
  | write _ ha => exact hs.congr (State.writeTarget_ram_wf ha hs.ramWf) (by simp) (by simpa using hs.errLow)

/-- Settles O5: the event is a write to CMD, which runs its word as a command. -/
theorem stepRunsTheDecodedCommand : Obligations.StepRunsTheDecodedCommand := fun _ _ _ _ => step_of_decode_ok

end Sys2Proof.Machine

/-! PROOFS for 10_state.md. GTE (R36). -/

namespace Sys2Proof.Machine

/-! ### GteL compares integers (R145) -/

theorem valOf_append_limb (a : Limbs) (x : Word) : valOf (a ++ [x]) = valOf a + 2 ^ (64 * a.length) * x.toNat := by
  induction a with
  | nil => simp
  | cons y ys ih =>
    rw [List.cons_append, valOf_cons, ih, valOf_cons, List.length_cons, two_pow_limbs_succ]
    ring

/-- The first limb in which two arrays differ, from the top, decides which integer is larger. -/
theorem gteFromTop_eq {a b : Limbs} (h : a.length = b.length) :
    gteFromTop a b = decide (valOf b.reverse ≤ valOf a.reverse) := by
  induction a generalizing b with
  | nil =>
    obtain rfl : b = [] := List.length_eq_zero_iff.1 h.symm
    rfl
  | cons x xs ih =>
    cases b with
    | nil => simp at h
    | cons y ys =>
      have hlen : xs.length = ys.length := by simpa using h
      have hx := valOf_lt xs.reverse
      have hy := valOf_lt ys.reverse
      simp only [List.length_reverse] at hx hy
      rw [← hlen] at hy
      rw [gteFromTop, List.reverse_cons, List.reverse_cons, valOf_append_limb, valOf_append_limb, List.length_reverse,
        List.length_reverse, ← hlen]
      generalize 2 ^ (64 * xs.length) = R at hx hy
      rcases lt_trichotomy x.toNat y.toNat with hlt | heq | hgt
      · have hne : x ≠ y := fun e => by simp [e] at hlt
        have hbig : R * x.toNat + R ≤ R * y.toNat := by nlinarith
        rw [if_pos hne]
        exact decide_eq_decide.2 (by omega)
      · obtain rfl : x = y := BitVec.eq_of_toNat_eq heq
        rw [if_neg (not_not.2 rfl), ih hlen]
        exact decide_eq_decide.2 (by omega)
      · have hne : x ≠ y := fun e => by simp [e] at hgt
        have hbig : R * y.toNat + R ≤ R * x.toNat := by nlinarith
        rw [if_pos hne]
        exact decide_eq_decide.2 (by omega)

theorem gteL_eq {a b : Limbs} (h : a.length = b.length) : gteL a b = decide (valOf b ≤ valOf a) := by
  rw [gteL, gteFromTop_eq (by simpa using h), List.reverse_reverse, List.reverse_reverse]

theorem State.gteL_loadOperand (s : State) (a b len : Nat) :
    gteL (s.loadOperand a len) (s.loadOperand b len) = decide (s.memRead b (8 * len) ≤ s.memRead a (8 * len)) := by
  rw [gteL_eq (by simp), State.valOf_loadOperand, State.valOf_loadOperand]

/-! ### Commands run with another GTE (R36) -/

@[simp] theorem State.setGte_setGte (s : State) (g f : Bool) : (s.setGte g).setGte f = s.setGte f := rfl

@[simp] theorem State.memRead_setGte (s : State) (g : Bool) (off n : Nat) :
    (s.setGte g).memRead off n = s.memRead off n := State.memRead_congr fun _ _ _ => rfl

@[simp] theorem State.loadOperand_setGte (s : State) (g : Bool) (off len : Nat) :
    (s.setGte g).loadOperand off len = s.loadOperand off len := by
  rw [State.loadOperand, State.memRead_setGte, State.loadOperand]

@[simp] theorem State.memWrite_setGte (s : State) (g : Bool) (off n v : Nat) :
    (s.setGte g).memWrite off n v = (s.memWrite off n v).setGte g := by
  induction n generalizing s off v with
  | zero => rfl
  | succ n ih =>
    rw [State.memWrite_succ, State.memWrite_succ, ← ih]
    rfl

@[simp] theorem State.storeOperand_setGte (s : State) (g : Bool) (off len : Nat) (a : Limbs) :
    (s.setGte g).storeOperand off len a = (s.storeOperand off len a).setGte g := s.memWrite_setGte g _ _ _

@[simp] theorem State.setSlot_setGte (s : State) (g : Bool) (k : Slot) (c : Context) :
    (s.setGte g).setSlot k c = (s.setSlot k c).setGte g := rfl

/-- A check lets the rest of a body through as it is. -/
theorem require_map {α β : Type} (f : α → β) (p : Bool) (c : ErrCode) (r : Except ErrCode α) :
    (require p c r).map f = require p c (r.map f) := by
  cases p <;> rfl

/-- GTE goes through the end of a command when it goes through its body. -/
theorem finish_setGte {f t : State} {body body' : Except ErrCode State} {g : Bool}
    (hbody : body' = body.map (State.setGte · g)) (h : finish f body = .next t) :
    finish (f.setGte g) body' = .next (t.setGte g) := by
  subst hbody
  rcases finish_cases h with ⟨u, rfl, rfl⟩ | ⟨c, rfl, rfl⟩ <;> rfl

/-! The bodies of the commands that neither write nor read GTE. -/

section
variable (s : State) (g : Bool) (len : Nat) (k : Slot) (dst src1 src2 : Nat)

theorem setmodBody_setGte : setmodBody len k src1 (s.setGte g) = (setmodBody len k src1 s).map (State.setGte · g) := by
  simp only [setmodBody, checkLimbCount, checkRange, require_map, State.loadOperand_setGte, State.setSlot_setGte]
  rfl

theorem setmodiBody_setGte : setmodiBody len k src1 (s.setGte g) = (setmodiBody len k src1 s).map (State.setGte · g) := by
  simp only [setmodiBody, checkLimbCount, checkRange, require_map, State.loadOperand_setGte, State.memRead_setGte,
    State.setSlot_setGte]
  rfl

theorem binaryBody_setGte (core : Limbs → Limbs → Limbs → Word → Except ErrCode Limbs) :
    binaryBody core len k dst src1 src2 (s.setGte g) = (binaryBody core len k dst src1 src2 s).map (State.setGte · g) := by
  simp only [binaryBody, checkCtx, checkRange, checkBelow, require_map, State.loadOperand_setGte, State.slot_setGte,
    State.storeOperand_setGte]
  cases core (s.loadOperand src1 len) (s.loadOperand src2 len) ((s.slot k).modLimbs len) (s.slot k).modInv <;> rfl

theorem unaryBody_setGte (core : Limbs → Context → Except ErrCode Limbs) :
    unaryBody core len k dst src1 (s.setGte g) = (unaryBody core len k dst src1 s).map (State.setGte · g) := by
  simp only [unaryBody, checkCtx, checkRange, require_map, State.loadOperand_setGte, State.slot_setGte,
    State.storeOperand_setGte]
  cases core (s.loadOperand src1 len) (s.slot k) <;> rfl

end

/-- A command that neither writes nor reads GTE carries another value of it through (R36). -/
theorem exec_setGte_of_not_cmpgte {i : Instr} {s t : State} (g : Bool) (hsel : i.isCsel = false) (hcmp : i.isCmpgte = false)
    (h : exec i s = .next t) : exec i (s.setGte g) = .next (t.setGte g) := by
  cases i with
  | setmod => exact finish_setGte (setmodBody_setGte ..) h
  | setmodi => exact finish_setGte (setmodiBody_setGte ..) h
  | clrctx k => exact finish_setGte (f := s) (body := .ok (s.clearSlot k)) rfl h
  | addmod | submod | mulmont => exact finish_setGte (binaryBody_setGte ..) h
  | tomont | tonorm => exact finish_setGte (unaryBody_setGte ..) h
  | cmpgte => simp [Instr.isCmpgte] at hcmp
  | csel => simp [Instr.isCsel] at hsel

/-! CMPGTE, which writes GTE and does not read it. -/

section
variable {len a b : Nat} {s t : State}

theorem cmpgteBody_setGte (s : State) (g : Bool) : cmpgteBody len a b (s.setGte g) = cmpgteBody len a b s := by
  simp only [cmpgteBody, State.loadOperand_setGte, State.setGte_setGte]

theorem cmpgteBody_error_ne_ok {e : ErrCode} : cmpgteBody len a b s = .error e → e ≠ .ok := by
  unfold cmpgteBody checkLimbCount checkRange
  exact require_error_ne_ok (by decide) <| require_error_ne_ok (by decide) <| require_error_ne_ok (by decide) (by simp)

/-- CMPGTE fails, or compares the two integers (R151). -/
theorem exec_cmpgte_cases (h : exec (.cmpgte len a b) s = .next t) :
    (∃ c, c ≠ .ok ∧ cmpgteBody len a b s = .error c ∧ t = s.raise c) ∨
    (cmpgteBody len a b s = .ok (s.setGte (decide (s.memRead b (8 * len) ≤ s.memRead a (8 * len)))) ∧
      t = (s.setGte (decide (s.memRead b (8 * len) ≤ s.memRead a (8 * len)))).succeed) := by
  rcases finish_cases h with ⟨u, hu, rfl⟩ | ⟨c, hc, rfl⟩
  · obtain ⟨-, -, -, -, rfl⟩ := cmpgteBody_ok hu
    rw [← State.gteL_loadOperand]
    exact .inr ⟨hu, rfl⟩
  · exact .inl ⟨c, cmpgteBody_error_ne_ok hc, hc, rfl⟩

theorem exec_cmpgte_gte (h : exec (.cmpgte len a b) s = .next t) (he : t.err = 0) :
    t.gte = decide (s.memRead b (8 * len) ≤ s.memRead a (8 * len)) := by
  rcases exec_cmpgte_cases h with ⟨c, hc, -, rfl⟩ | ⟨-, rfl⟩
  · exact absurd he (ErrCode.code_ne_zero hc)
  · rfl

/-- Another GTE before CMPGTE stays only when it fails. -/
theorem exec_cmpgte_setGte (g : Bool) (h : exec (.cmpgte len a b) s = .next t) :
    exec (.cmpgte len a b) (s.setGte g) = .next (t.setGte (if t.err = 0 then t.gte else g)) := by
  simp only [exec, execCmpgte, cmpgteBody_setGte]
  rcases exec_cmpgte_cases h with ⟨c, hc, hbody, rfl⟩ | ⟨hbody, rfl⟩
  · have hne : (s.raise c).err ≠ 0 := ErrCode.code_ne_zero hc
    rw [hbody, if_neg hne]
    rfl
  · rw [hbody]
    rfl

end

/-- No command but CSEL depends on GTE: run with another one, it leaves that one unless it is a successful CMPGTE (R36). -/
theorem exec_setGte {i : Instr} {s t : State} (g : Bool) (hsel : i.isCsel = false) (h : exec i s = .next t) :
    exec i (s.setGte g) = .next (t.setGte (if i.isCmpgte = true ∧ t.err = 0 then t.gte else g)) := by
  cases hcmp : i.isCmpgte with
  | false => simpa using exec_setGte_of_not_cmpgte g hsel hcmp h
  | true =>
    cases i with
    | cmpgte => simpa using exec_cmpgte_setGte g h
    | setmod | setmodi | clrctx | addmod | submod | mulmont | tomont | tonorm | csel => simp [Instr.isCmpgte] at hcmp

/-! ### STATUS and CTXCFG bit by bit (R41, R43) -/

/-- STATUS: ERR in [3:0], GTE in [4], STICKY in [8], CTXV in [19:16], and 0 elsewhere. -/
theorem State.statusWord_getLsbD (s : State) (i : Nat) :
    s.statusWord.getLsbD i =
      if i < 4 then s.err.getLsbD i else if i = 4 then s.gte else if i = 8 then s.sticky
      else if 16 ≤ i ∧ i < 20 then s.ctxv.getLsbD (i - 16) else false := by
  simp only [State.statusWord, flagBit, BitVec.getLsbD_append, BitVec.getLsbD_ofBool]
  grind

/-- CTXV bit k is VALID of slot k. -/
theorem State.ctxv_getLsbD (s : State) (k : Slot) : s.ctxv.getLsbD k.val = (s.slot k).valid := by
  fin_cases k <;> simp only [State.ctxv, flagBit, BitVec.getLsbD_append] <;> simp

/-- CTXCFG: VALID in [0], L in [11:8], and 0 elsewhere. -/
theorem Context.cfgWord_getLsbD (c : Context) (i : Nat) :
    c.cfgWord.getLsbD i =
      if i = 0 then c.valid else if 8 ≤ i ∧ i < 12 then c.len.getLsbD (i - 8) else false := by
  simp only [Context.cfgWord, flagBit, BitVec.getLsbD_append, BitVec.getLsbD_ofBool]
  grind

/-- Settles O30: every body but CSEL's goes through with another GTE, and only a successful CMPGTE writes it. -/
theorem gteIsCmpgtesAndCselsAlone : Obligations.GteIsCmpgtesAndCselsAlone :=
  ⟨rfl, fun _ _ _ _ _ => exec_cmpgte_gte, fun _ _ _ => exec_gte, fun _ _ _ => exec_setGte,
    fun s => s.statusWord_getLsbD 4⟩

end Sys2Proof.Machine

/-! PROOFS for 10_state.md. The registers of the host port (R40 to R46, R55). -/

namespace Sys2Proof.Machine

/-! ### 8-byte accesses -/

/-- What a read returns does not depend on the events still to come. -/
theorem State.readTarget_events (s : State) (rest : List HostEvent) (size : AccessSize) (t : Target) :
    ({ s with pending := rest } : State).readTarget size t = s.readTarget size t := by
  cases t with
  | ram off => exact congrArg (BitVec.ofNat 64) (State.memRead_congr fun _ _ _ => rfl)
  | cmd | status | params | ctxCfg | ctxModInv | ctxMod | ctxR2 | reserved => rfl

/-- An accepted 8-byte read answers the register and changes nothing (R80). -/
theorem step_read64 {s : State} {rest : List HostEvent} {addr : Nat} {t : Target}
    (h : s.pending = .request (read64 addr) :: rest) (ht : targetOf (BitVec.ofNat 16 addr) = t) (halign : addr % 8 = 0)
    (hres : t ≠ .reserved) :
    step s = .next { s with
      pending := rest, responses := s.responses ++ [{ resp := .okay, rdata := s.readTarget .eight t }] } := by
  have hacc : (read64 addr).accepted = true :=
    Request.accepted_eight_iff.2 ⟨by rw [BitVec.toNat_ofNat]; omega, ht ▸ hres⟩
  subst ht
  rw [step_request h, serve_read _ rfl, if_pos hacc, State.readTarget_events]
  rfl

theorem serve_write {r : Request} (s : State) (ha : r.accepted = true) (hk : r.kind = .write) (ht : targetOf r.addr ≠ .cmd) :
    serve r s = .next ((s.writeTarget r.size r.wdata (targetOf r.addr)).respond .okay 0) := by
  rw [serve, if_pos ha, hk]
  exact if_neg ht

/-- An 8-byte write to a register that ignores it (R84). -/
theorem step_write64_ignored {s : State} {rest : List HostEvent} {addr : Nat} {wdata : Word}
    (h : s.pending = .request (write64 addr wdata) :: rest) (halign : addr % 8 = 0)
    (hres : targetOf (BitVec.ofNat 16 addr) ≠ .reserved) (hcmd : targetOf (BitVec.ofNat 16 addr) ≠ .cmd)
    (hignored : ∀ u : State, u.writeTarget .eight wdata (targetOf (BitVec.ofNat 16 addr)) = u) :
    step s = .next { s with pending := rest, responses := s.responses ++ [{ resp := .okay, rdata := 0 }] } := by
  have hacc : (write64 addr wdata).accepted = true :=
    Request.accepted_eight_iff.2 ⟨by rw [BitVec.toNat_ofNat]; omega, hres⟩
  rw [step_request h, serve_write _ hacc rfl hcmd]
  exact congrArg (fun u : State => Host.Outcome.next (u.respond .okay 0)) (hignored _)

/-- The registers below the context windows. -/
theorem targetOf_cmd : targetOf (BitVec.ofNat 16 0x1000) = .cmd := by decide

theorem targetOf_status : targetOf (BitVec.ofNat 16 0x1008) = .status := by decide

theorem targetOf_params : targetOf (BitVec.ofNat 16 0x1010) = .params := by decide

/-- Byte `off` of slot k's window. -/
theorem targetOf_window (k : Slot) {off : Nat} (h : off < 0x100) :
    targetOf (BitVec.ofNat 16 (0x1100 + 0x100 * k.val + off)) = windowTarget k off := by
  have hk := k.isLt
  have ha : (BitVec.ofNat 16 (0x1100 + 0x100 * k.val + off)).toNat = 0x1100 + 0x100 * k.val + off := by
    rw [BitVec.toNat_ofNat]
    omega
  have hslot : Fin.ofNat 4 ((0x1100 + 0x100 * k.val + off - 0x1100) / 0x100) = k :=
    Fin.ext (by simp only [Fin.ofNat]; omega)
  have hoff : (0x1100 + 0x100 * k.val + off - 0x1100) % 0x100 = off := by omega
  simp only [targetOf, ha, hslot, hoff]
  rw [if_neg (by omega), if_neg (by omega), if_neg (by omega), if_neg (by omega), if_neg (by omega), if_pos (by omega)]

theorem windowTarget_mod (k : Slot) (j : Fin 12) : windowTarget k (0x10 + 8 * j.val) = .ctxMod k j := by
  have hj := j.isLt
  have hlimb : Fin.ofNat 12 ((0x10 + 8 * j.val - 0x10) / 8) = j := Fin.ext (by simp only [Fin.ofNat]; omega)
  rw [windowTarget, if_neg (by omega), if_neg (by omega), if_pos (by omega), hlimb]

theorem windowTarget_r2 (k : Slot) (j : Fin 12) : windowTarget k (0x70 + 8 * j.val) = .ctxR2 k j := by
  have hj := j.isLt
  have hlimb : Fin.ofNat 12 ((0x70 + 8 * j.val - 0x70) / 8) = j := Fin.ext (by simp only [Fin.ofNat]; omega)
  rw [windowTarget, if_neg (by omega), if_neg (by omega), if_neg (by omega), if_pos (by omega), hlimb]

/-- The 26 registers of a window are read-only: a write to one changes nothing (R84). -/
theorem windowTarget_readOnly (k : Slot) {off : Nat} (h : off < 0xD0) :
    windowTarget k off ≠ .reserved ∧ windowTarget k off ≠ .cmd ∧
      ∀ (u : State) (size : AccessSize) (w : Word), u.writeTarget size w (windowTarget k off) = u := by
  rcases windowTarget_cases k off with ht | ht | ⟨j, ht⟩ | ⟨j, ht⟩ | ⟨-, hge⟩
  · rw [ht]; exact ⟨by simp, by simp, fun _ _ _ => rfl⟩
  · rw [ht]; exact ⟨by simp, by simp, fun _ _ _ => rfl⟩
  · rw [ht]; exact ⟨by simp, by simp, fun _ _ _ => rfl⟩
  · rw [ht]; exact ⟨by simp, by simp, fun _ _ _ => rfl⟩
  · omega

/-! ### Fields of the registers -/

theorem extractLsb'_eq_zero {w : Word} {a n : Nat} (h : ∀ i, i < n → w.getLsbD (a + i) = false) :
    w.extractLsb' a n = 0 :=
  BitVec.eq_of_getLsbD_eq fun i hi => by simp [BitVec.getLsbD_extractLsb', h i hi]

theorem State.statusWord_err (s : State) : s.statusWord.extractLsb' 0 4 = s.err :=
  BitVec.eq_of_getLsbD_eq fun i hi => by simp [State.statusWord_getLsbD, hi]

theorem State.statusWord_valid (s : State) (k : Slot) : s.statusWord.getLsbD (16 + k.val) = (s.slot k).valid := by
  have hk := k.isLt
  rw [State.statusWord_getLsbD, if_neg (by omega), if_neg (by omega), if_neg (by omega), if_pos (by omega),
    Nat.add_sub_cancel_left, State.ctxv_getLsbD]

theorem Context.cfgWord_len (c : Context) : c.cfgWord.extractLsb' 8 4 = c.len :=
  BitVec.eq_of_getLsbD_eq fun i hi => by simp [Context.cfgWord_getLsbD, hi, show 8 + i < 12 by omega]

/-! ### The obligations -/

/-- Settles O49: the bits of STATUS one by one. -/
theorem statusReadShowsEveryField : Obligations.StatusReadShowsEveryField := by
  intro s rest h
  refine ⟨s.statusWord, step_read64 h targetOf_status rfl (by simp), s.statusWord_err, s.statusWord_getLsbD 4, ?_,
    s.statusWord_getLsbD 8, ?_, s.statusWord_valid, ?_⟩ <;>
  · refine extractLsb'_eq_zero fun i hi => ?_
    rw [State.statusWord_getLsbD, if_neg (by omega), if_neg (by omega), if_neg (by omega), if_neg (by omega)]

/-- Settles O50: PARAMS reads `paramsWord`, and the map has it among the registers that ignore a write. -/
theorem paramsIsAConstant : Obligations.ParamsIsAConstant := by
  refine fun s rest wdata => ⟨fun h => ?_, fun h => ?_⟩
  · exact step_read64 h targetOf_params rfl (by simp)
  · exact step_write64_ignored h rfl (by simp [targetOf_params]) (by simp [targetOf_params])
      fun u => by rw [targetOf_params]; rfl

/-- Settles O51: each of the 26 registers by its place in the window. -/
theorem contextWindowsShowTheSlots : Obligations.ContextWindowsShowTheSlots := by
  intro s rest k j wdata
  have hj := j.isLt
  refine ⟨⟨(s.slot k).cfgWord, fun h => ?_, (s.slot k).cfgWord_getLsbD 0, ?_, (s.slot k).cfgWord_len, ?_⟩,
    fun h => ?_, fun h => ?_, fun h => ?_, fun o ho h => ?_⟩
  · exact step_read64 h (targetOf_window k (off := 0) (by omega)) (by omega) (by simp [windowTarget])
  · refine extractLsb'_eq_zero fun i hi => ?_
    rw [Context.cfgWord_getLsbD, if_neg (by omega), if_neg (by omega)]
  · refine extractLsb'_eq_zero fun i hi => ?_
    rw [Context.cfgWord_getLsbD, if_neg (by omega), if_neg (by omega)]
  · exact step_read64 h (targetOf_window k (off := 8) (by omega)) (by omega) (by simp [windowTarget])
  · rw [Nat.add_assoc] at h
    exact step_read64 h ((targetOf_window k (by omega)).trans (windowTarget_mod k j)) (by omega) (by simp)
  · rw [Nat.add_assoc] at h
    exact step_read64 h ((targetOf_window k (by omega)).trans (windowTarget_r2 k j)) (by omega) (by simp)
  · have hmap := targetOf_window k (off := 8 * o) (by omega)
    obtain ⟨hres, hcmd, hignored⟩ := windowTarget_readOnly k (off := 8 * o) (by omega)
    exact step_write64_ignored h (by omega) (hmap ▸ hres) (hmap ▸ hcmd) fun u => by rw [hmap]; exact hignored u _ _

/-- Settles O48: the write is accepted, and of a STATUS write only bit 8 counts. -/
theorem statusWriteClearsStickyOnly : Obligations.StatusWriteClearsStickyOnly := by
  intro s wdata rest h
  obtain ⟨hacc, hk, ht⟩ := Request.eq_statusRequest_iff.1 (rfl : statusRequest wdata = _)
  rw [step_request h, serve_write _ hacc hk (by simp [ht]), ht]
  have hsticky : (s.sticky && !wdata.getLsbD 8) = if wdata.getLsbD 8 then false else s.sticky := by
    cases wdata.getLsbD 8 <;> simp
  rw [← hsticky]
  rfl

/-- What a write to CMD leaves for the host, whatever becomes of its word (R40, R302 point 7). -/
theorem step_writesCmd_host_fields {s : State} {w : Word} {rest : List HostEvent} (h : s.writesCmd w rest) :
    ∃ t, step s = .next t ∧ t.lastCmd = w ∧ t.pending = rest ∧
      t.responses = s.responses ++ [{ resp := .okay, rdata := 0 }] := by
  cases hd : decode w with
  | ok i =>
    obtain ⟨t, ht⟩ := exec_answers i (s.acceptCmd w rest)
    obtain ⟨hlast, hpend, hresp, -⟩ := exec_host_fields ht
    exact ⟨t, (step_of_decode_ok h hd).trans ht, hlast, hpend, hresp⟩
  | error e => exact ⟨_, step_of_decode_error h hd, rfl, rfl, rfl⟩

/-- Settles O52: the write leaves its word in LASTCMD, and the read answers LASTCMD. -/
theorem cmdReadsBackTheLastWord : Obligations.CmdReadsBackTheLastWord := by
  refine ⟨rfl, fun s w rest h => ?_⟩
  obtain ⟨t, ht, hlast, hpend, hresp⟩ := step_writesCmd_host_fields h
  refine ⟨t, ht, hlast, ?_⟩
  rw [step_read64 hpend targetOf_cmd rfl (by simp), hresp, State.readTarget, hlast, List.append_assoc]
  rfl

/-- Settles O54: a reset pulse and `State.reset` agree on every register and slot. -/
theorem resetClearsEveryRegister : Obligations.ResetClearsEveryRegister := by
  intro s rest h
  have hstatus : State.reset.statusWord = 0 := by decide
  refine ⟨_, step_reset h, rfl, rfl, fun u hu => ?_⟩
  rcases List.mem_pair.1 hu with rfl | rfl
  · exact ⟨State.slot_applyReset _, rfl, rfl, rfl, hstatus, rfl⟩
  · exact ⟨State.slot_reset, rfl, rfl, rfl, hstatus, rfl⟩

end Sys2Proof.Machine

/-! PROOFS for 20_memory.md. Stores that are repeated or exchanged, and the commands that store (R78, R81, R87). -/

namespace Sys2Proof.Machine

/-! ### Stores to the list of written bytes -/

/-- Of two stores to one offset the second counts. -/
theorem Memory.store_store_self (m : Memory) (off : Nat) (b c : Byte) :
    Memory.store (Memory.store m off b) off c = Memory.store m off c := by
  induction m with
  | nil => simp [Memory.store]
  | cons cell rest ih =>
    obtain ⟨a, v⟩ := cell
    rcases lt_trichotomy off a with hlt | rfl | hgt
    · simp [Memory.store, hlt]
    · simp [Memory.store]
    · simp [Memory.store, hgt.not_gt, hgt.ne', ih]

/-- Stores to two offsets exchange; the list need not be canonical. -/
theorem Memory.store_comm_of_lt (m : Memory) {low high : Nat} (b c : Byte) (h : low < high) :
    Memory.store (Memory.store m low b) high c = Memory.store (Memory.store m high c) low b := by
  induction m with
  | nil => simp [Memory.store, h, h.not_gt, h.ne']
  | cons cell rest ih =>
    obtain ⟨a, v⟩ := cell
    rcases lt_trichotomy low a with hlt | rfl | hgt
    · rcases lt_trichotomy high a with hlt' | rfl | hgt'
      · simp [Memory.store, *, h.not_gt, h.ne']
      · simp [Memory.store, *, h.not_gt, h.ne']
      · simp [Memory.store, *, h.not_gt, h.ne', hgt'.not_gt, hgt'.ne']
    · simp [Memory.store, h.not_gt, h.ne']
    · simp [Memory.store, hgt.not_gt, hgt.ne', (hgt.trans h).not_gt, (hgt.trans h).ne', ih]

/-! ### Buffer writes -/

theorem State.setByte_setByte_self (s : State) (off : Nat) (b c : Byte) : (s.setByte off b).setByte off c = s.setByte off c :=
  congrArg (fun m : Memory => { s with ram := m }) (Memory.store_store_self s.ram off b c)

theorem State.setByte_comm_of_lt (s : State) {low high : Nat} (b c : Byte) (h : low < high) :
    (s.setByte low b).setByte high c = (s.setByte high c).setByte low b :=
  congrArg (fun m : Memory => { s with ram := m }) (Memory.store_comm_of_lt s.ram b c h)

/-- A byte below a buffer may be written before it or after it. -/
theorem State.memWrite_setByte_below (s : State) {a off : Nat} (n v : Nat) (b : Byte) (h : a < off) :
    (s.setByte a b).memWrite off n v = (s.memWrite off n v).setByte a b := by
  induction n generalizing s off v with
  | zero => rfl
  | succ n ih =>
    rw [State.memWrite_succ, State.memWrite_succ, State.setByte_comm_of_lt s b _ h, ih _ _ (by omega)]

/-- Of two writes to one buffer the second counts. -/
theorem State.memWrite_memWrite_self (s : State) (off n v w : Nat) :
    (s.memWrite off n v).memWrite off n w = s.memWrite off n w := by
  induction n generalizing s off v w with
  | zero => rfl
  | succ n ih =>
    have hbelow := s.memWrite_setByte_below n (v / 256) (BitVec.ofNat 8 v) (Nat.lt_succ_self off)
    rw [State.memWrite_succ, State.memWrite_succ, hbelow, State.setByte_setByte_self,
      ← State.memWrite_setByte_below _ _ _ _ (Nat.lt_succ_self off), ih, State.memWrite_succ]

theorem State.memWrite_succeed (s : State) (off n v : Nat) : s.succeed.memWrite off n v = (s.memWrite off n v).succeed := by
  induction n generalizing s off v with
  | zero => rfl
  | succ n ih => exact ih (s.setByte off (BitVec.ofNat 8 v)) (off + 1) (v / 256)

/-- A result stored and stored again is stored once. -/
theorem State.storeOperand_succeed_again (s : State) (off len : Nat) (a : Limbs) :
    ((s.storeOperand off len a).succeed.storeOperand off len a).succeed = (s.storeOperand off len a).succeed := by
  simp only [State.storeOperand_eq, State.memWrite_succeed, State.memWrite_memWrite_self]
  rfl

/-- A buffer that keeps its bytes gives the same operand. -/
theorem State.loadOperand_congr {s t : State} {off len : Nat}
    (h : ∀ a, off ≤ a → a < off + 8 * len → t.byteAt a = s.byteAt a) : t.loadOperand off len = s.loadOperand off len :=
  congrArg (limbsOf · len) (State.memRead_congr h)

/-! ### The storing commands: a result of the slot, the operands and GTE, and one store of it -/

/-- What ADDMOD, SUBMOD and MULMONT compute from the context `c` and the operands x and y before they store. -/
def binaryResult (core : Limbs → Limbs → Limbs → Word → Except ErrCode Limbs) (len dst src1 src2 : Nat) (c : Context)
    (x y : Limbs) : Except ErrCode Limbs :=
  require c.valid .noContext <|
  require (decide (len = c.len.toNat)) .lengthMismatch <|
  checkRange src1 (8 * len) <|
  checkRange src2 (8 * len) <|
  checkRange dst (8 * len) <|
  checkBelow x y (c.modLimbs len) <|
  core x y (c.modLimbs len) c.modInv

/-- What TOMONT and TONORM compute from the context `c` and the operand x before they store. -/
def unaryResult (core : Limbs → Context → Except ErrCode Limbs) (len dst src1 : Nat) (c : Context) (x : Limbs) :
    Except ErrCode Limbs :=
  require c.valid .noContext <|
  require (decide (len = c.len.toNat)) .lengthMismatch <|
  checkRange src1 (8 * len) <|
  checkRange dst (8 * len) <|
  core x c

/-- What CSEL computes from GTE and the operands x and y before it stores. -/
def cselResult (len dst src1 src2 : Nat) (g : Bool) (x y : Limbs) : Except ErrCode Limbs :=
  checkLimbCount len .lengthMismatch <|
  checkRange src1 (8 * len) <|
  checkRange src2 (8 * len) <|
  checkRange dst (8 * len) <|
  .ok (sel g x y)

theorem binaryBody_eq (core : Limbs → Limbs → Limbs → Word → Except ErrCode Limbs) (len : Nat) (k : Slot)
    (dst src1 src2 : Nat) (s : State) :
    binaryBody core len k dst src1 src2 s =
      (binaryResult core len dst src1 src2 (s.slot k) (s.loadOperand src1 len) (s.loadOperand src2 len)).map
        (s.storeOperand dst len) := by
  simp only [binaryBody, binaryResult, checkCtx, checkRange, checkBelow, require_map]
  cases core (s.loadOperand src1 len) (s.loadOperand src2 len) ((s.slot k).modLimbs len) (s.slot k).modInv <;> rfl

theorem unaryBody_eq (core : Limbs → Context → Except ErrCode Limbs) (len : Nat) (k : Slot) (dst src1 : Nat) (s : State) :
    unaryBody core len k dst src1 s =
      (unaryResult core len dst src1 (s.slot k) (s.loadOperand src1 len)).map (s.storeOperand dst len) := by
  simp only [unaryBody, unaryResult, checkCtx, checkRange, require_map]
  cases core (s.loadOperand src1 len) (s.slot k) <;> rfl

theorem cselBody_eq (len dst src1 src2 : Nat) (s : State) :
    cselBody len dst src1 src2 s =
      (cselResult len dst src1 src2 s.gte (s.loadOperand src1 len) (s.loadOperand src2 len)).map (s.storeOperand dst len) := by
  simp only [cselBody, cselResult, checkLimbCount, checkRange, require_map]
  rfl

section
variable {binaryCore : Limbs → Limbs → Limbs → Word → Except ErrCode Limbs}
  {unaryCore : Limbs → Context → Except ErrCode Limbs}
variable {len dst src1 src2 : Nat} {k : Slot} {s t : State}

/-- A command that ended with the result r, failed or stored, ends the same when it comes to r again. -/
theorem finish_store_again {r : Except ErrCode Limbs} (h : finish s (r.map (s.storeOperand dst len)) = .next t) :
    finish t (r.map (t.storeOperand dst len)) = .next t := by
  cases r with
  | error c =>
    obtain rfl : s.raise c = t := Host.Outcome.next.inj h
    rfl
  | ok a =>
    obtain rfl : (s.storeOperand dst len a).succeed = t := Host.Outcome.next.inj h
    exact congrArg Host.Outcome.next (s.storeOperand_succeed_again dst len a)

theorem finish_binaryBody_again (hslot : t.slot k = s.slot k) (hx : t.loadOperand src1 len = s.loadOperand src1 len)
    (hy : t.loadOperand src2 len = s.loadOperand src2 len)
    (h : finish s (binaryBody binaryCore len k dst src1 src2 s) = .next t) :
    finish t (binaryBody binaryCore len k dst src1 src2 t) = .next t := by
  rw [binaryBody_eq] at h ⊢
  rw [hslot, hx, hy]
  exact finish_store_again h

theorem finish_unaryBody_again (hslot : t.slot k = s.slot k) (hx : t.loadOperand src1 len = s.loadOperand src1 len)
    (h : finish s (unaryBody unaryCore len k dst src1 s) = .next t) :
    finish t (unaryBody unaryCore len k dst src1 t) = .next t := by
  rw [unaryBody_eq] at h ⊢
  rw [hslot, hx]
  exact finish_store_again h

theorem finish_cselBody_again (hgte : t.gte = s.gte) (hx : t.loadOperand src1 len = s.loadOperand src1 len)
    (hy : t.loadOperand src2 len = s.loadOperand src2 len) (h : finish s (cselBody len dst src1 src2 s) = .next t) :
    finish t (cselBody len dst src1 src2 t) = .next t := by
  rw [cselBody_eq] at h ⊢
  rw [hgte, hx, hy]
  exact finish_store_again h

end

/-! ### The obligations -/

/-- Settles O34: the first run leaves the slot, the operands and GTE, so the second comes to the same result. -/
theorem repeatedPureCommandChangesNothing : Obligations.RepeatedPureCommandChangesNothing := by
  intro len k dst src1 src2 s t h1 h2 i hi h
  simp only [List.mem_cons, List.not_mem_nil, or_false] at hi
  have hrange : i.storedRange = some (dst, 8 * len) := by
    rcases hi with rfl | rfl | rfl | rfl | rfl | rfl <;> rfl
  obtain ⟨hbyte, hctx, hgte, -⟩ := frameOfStoringCommands i s t dst _ hrange h
  have hslot : t.slot k = s.slot k := State.slot_congr hctx k
  have hload : ∀ {src : Nat}, (dst + 8 * len ≤ src ∨ src + 8 * len ≤ dst) →
      t.loadOperand src len = s.loadOperand src len :=
    fun hd => State.loadOperand_congr fun a _ _ => hbyte a (by omega)
  rcases hi with rfl | rfl | rfl | rfl | rfl | rfl
  · exact finish_binaryBody_again hslot (hload h1) (hload h2) h
  · exact finish_binaryBody_again hslot (hload h1) (hload h2) h
  · exact finish_binaryBody_again hslot (hload h1) (hload h2) h
  · exact finish_unaryBody_again hslot (hload h1) h
  · exact finish_unaryBody_again hslot (hload h1) h
  · exact finish_cselBody_again hgte (hload h1) (hload h2) h

/-- Settles O8: the checks hold, and the selected limbs stand for the selected buffer's value. -/
theorem cselWritesTheSelectedOperand : Obligations.CselWritesTheSelectedOperand := by
  intro s len dst src1 src2 hmin hmax h1 h2 hd
  have hbody : cselBody len dst src1 src2 s =
      .ok (s.storeOperand dst len (sel s.gte (s.loadOperand src1 len) (s.loadOperand src2 len))) := by
    simp only [cselBody, checkLimbCount_eq_ok, checkRange_eq_ok]
    exact ⟨⟨hmin, hmax⟩, h1, h2, hd, trivial⟩
  rw [exec, execCsel, hbody, finish_ok, State.storeOperand_eq, sel, apply_ite valOf, State.valOf_loadOperand,
    State.valOf_loadOperand]
  rfl

end Sys2Proof.Machine

/-! PROOFS for 20_memory.md. The transactions of the host port (R71, R76, R80, R82, R83, R95). -/

namespace Sys2Proof.Machine

/-! ### Which accesses are accepted -/

theorem windowTarget_eq_reserved_iff {k : Slot} {off : Nat} : windowTarget k off = .reserved ↔ 0xD0 ≤ off := by
  unfold windowTarget
  split_ifs <;> simp <;> omega

/-- The holes of the address map: above the three registers, above each window's registers, and above the windows (R83). -/
theorem targetOf_eq_reserved_iff {a : BitVec 16} :
    targetOf a = .reserved ↔
      (0x1018 ≤ a.toNat ∧ a.toNat < 0x1100) ∨ (0x1100 ≤ a.toNat ∧ a.toNat < 0x1500 ∧ 0xD0 ≤ a.toNat % 0x100) ∨
        0x1500 ≤ a.toNat := by
  simp only [targetOf]
  split_ifs <;> simp [windowTarget_eq_reserved_iff] <;> omega

theorem windowTarget_ne_ram (k : Slot) (off a : Nat) : windowTarget k off ≠ .ram a := by
  unfold windowTarget
  split_ifs <;> simp

theorem targetOf_of_lt {a : BitVec 16} (h : a.toNat < 0x1000) : targetOf a = .ram a.toNat := if_pos h

/-- The RAM takes every size, and every other address 8 bytes alone (R76). -/
theorem targetOf_sizeOk_iff {a : BitVec 16} {size : AccessSize} (h : targetOf a ≠ .reserved) :
    (targetOf a).sizeOk size = true ↔ a.toNat < 0x1000 ∨ size = .eight := by
  by_cases hlow : a.toNat < 0x1000
  · simp [targetOf_of_lt hlow, Target.sizeOk, hlow]
  · have hram : ∀ off, targetOf a ≠ .ram off := by
      unfold targetOf
      simp only [hlow, ↓reduceIte]
      split_ifs <;> simp [windowTarget_ne_ram]
    cases ht : targetOf a <;> simp_all [Target.sizeOk]

/-- An access fails by its alignment, by its size or by its address (R76, R83). -/
theorem Request.accepted_eq_false_iff (r : Request) :
    r.accepted = false ↔
      r.addr.toNat % r.size.bytes ≠ 0 ∨ (0x1000 ≤ r.addr.toNat ∧ r.size ≠ .eight) ∨ targetOf r.addr = .reserved := by
  rw [← Bool.not_eq_true, Request.accepted_iff]
  by_cases hres : targetOf r.addr = .reserved
  · simp [hres]
  · rw [targetOf_sizeOk_iff hres, ← Nat.not_lt]
    tauto

theorem Request.ram_accepted {r : Request} (hlow : r.addr.toNat < 0x1000) (halign : r.addr.toNat % r.size.bytes = 0) :
    r.accepted = true := by
  rw [Request.accepted_iff, targetOf_of_lt hlow]
  exact ⟨halign, by simp, rfl⟩

/-! ### What a transaction answers -/

@[simp] theorem State.writeTarget_responses (s : State) (size : AccessSize) (w : Word) (t : Target) :
    (s.writeTarget size w t).responses = s.responses := by rw [State.writeTarget_eq]

section
variable {s : State} {r : Request} {rest : List HostEvent}

theorem step_refused (h : s.pending = .request r :: rest) (ha : r.accepted = false) :
    step s = .next { s with pending := rest, responses := s.responses ++ [{ resp := .error, rdata := 0 }] } := by
  rw [step_request h, serve, ha]
  rfl

theorem step_read (h : s.pending = .request r :: rest) (ha : r.accepted = true) (hk : r.kind = .read) :
    step s = .next { s with
      pending := rest
      responses := s.responses ++ [{ resp := .okay, rdata := s.readTarget r.size (targetOf r.addr) }] } := by
  rw [step_request h, serve_read _ hk, if_pos ha, State.readTarget_events]
  rfl

theorem step_write (h : s.pending = .request r :: rest) (ha : r.accepted = true) (hk : r.kind = .write)
    (ht : targetOf r.addr ≠ .cmd) :
    step s = .next ((({ s with pending := rest } : State).writeTarget r.size r.wdata (targetOf r.addr)).respond .okay 0) := by
  rw [step_request h, serve_write _ ha hk ht]

/-- An accepted access is answered OKAY, a write with the data 0, whatever becomes of a command in it (R95). -/
theorem step_accepted (h : s.pending = .request r :: rest) (ha : r.accepted = true) :
    ∃ t d, step s = .next t ∧ t.responses = s.responses ++ [{ resp := .okay, rdata := d }] ∧ (r.kind = .write → d = 0) := by
  cases hk : r.kind with
  | read => exact ⟨_, _, step_read h ha hk, rfl, by simp⟩
  | write =>
    by_cases ht : targetOf r.addr = .cmd
    · have hcmd : s.writesCmd r.wdata rest := Request.eq_commandRequest_iff.2 ⟨ha, hk, ht⟩ ▸ h
      obtain ⟨t, hstep, -, -, hresp⟩ := step_writesCmd_host_fields hcmd
      exact ⟨t, 0, hstep, hresp, fun _ => rfl⟩
    · exact ⟨_, 0, step_write h ha hk ht, by simp, fun _ => rfl⟩

end

/-! ### Bytes of a data word -/

theorem AccessSize.bytes_le (size : AccessSize) : size.bytes ≤ 8 := by cases size <;> decide

theorem extractLsb'_byte (w : Word) (b : Nat) : w.extractLsb' (8 * b) 8 = BitVec.ofNat 8 (w.toNat / 256 ^ b) := by
  rw [show 256 ^ b = 2 ^ (8 * b) by rw [Nat.pow_mul], ← Nat.shiftRight_eq_div_pow]
  rfl

/-- A buffer that fits a data word is moved on it whole. -/
theorem State.toNat_memRead (s : State) (off : Nat) {n : Nat} (h : n ≤ 8) :
    (BitVec.ofNat 64 (s.memRead off n)).toNat = s.memRead off n := by
  have hlt : s.memRead off n < 2 ^ 64 :=
    calc s.memRead off n < 256 ^ n := s.memRead_lt off n
      _ ≤ 256 ^ 8 := Nat.pow_le_pow_right (by omega) h
  rw [BitVec.toNat_ofNat, Nat.mod_eq_of_lt hlt]

/-- Byte b of a buffer's value is the byte at its place b. -/
theorem State.ofNat_memRead_byte (s : State) (off : Nat) {n b : Nat} (h : b < n) :
    BitVec.ofNat 8 (s.memRead off n / 256 ^ b) = s.byteAt (off + b) := by
  apply BitVec.eq_of_toNat_eq
  rw [← s.memRead_one, s.memRead_slice off (a := b) (m := 1) (n := n) (by omega), BitVec.toNat_ofNat, Nat.pow_one]

/-! ### The obligations -/

/-- Settles O45: the bad accesses are those that are not accepted. -/
theorem badAccessesGetErrorAndChangeNothing : Obligations.BadAccessesGetErrorAndChangeNothing := by
  intro s r rest h a bad
  have hbad : bad ↔ r.accepted = false := by
    rw [Request.accepted_eq_false_iff, targetOf_eq_reserved_iff]
  exact ⟨fun hb => step_refused h (hbad.1 hb), fun hb => step_accepted h (by simpa [hbad] using hb)⟩

/-- Settles O47: an access to the RAM is a read or a write of a buffer of its size. -/
theorem hostAccessesToRamAreLittleEndian : Obligations.HostAccessesToRamAreLittleEndian := by
  intro s r rest h hlow halign
  have ha := Request.ram_accepted hlow halign
  have ht := targetOf_of_lt hlow
  refine ⟨fun hk => ?_, fun hk => ?_⟩
  · have hword := s.toNat_memRead r.addr.toNat r.size.bytes_le
    refine ⟨_, step_read h ha hk, fun b hb => ?_, ?_⟩
    · rw [ht, State.readTarget, extractLsb'_byte, hword, s.ofNat_memRead_byte _ hb]
    · rw [ht, State.readTarget, hword]
      exact s.memRead_lt _ _
  · have hstep := step_write h ha hk (by simp [ht])
    rw [ht, State.writeTarget] at hstep
    refine ⟨_, hstep, fun b hb => ?_, fun a ha => ?_, fun hsize => ?_, ?_⟩
    · rw [extractLsb'_byte]
      exact State.byteAt_memWrite_inside _ _ hb
    · exact State.byteAt_memWrite_outside _ _ ha
    · have hfits := Nat.mod_eq_of_lt r.wdata.isLt
      rw [hsize]
      exact (State.memRead_congr fun _ _ _ => rfl).trans ((State.memRead_memWrite_self _ _ 8 _).trans hfits)
    · rw [State.memWrite_eq]
      rfl

/-- Settles O46: a read only adds its response, OKAY or ERROR. -/
theorem readsHaveNoSideEffect : Obligations.ReadsHaveNoSideEffect := by
  intro s r rest h hk
  cases ha : r.accepted with
  | false => exact ⟨_, step_refused h ha⟩
  | true => exact ⟨_, step_read h ha hk⟩

/-- Settles O58: what a read answers has no write data in it. -/
theorem readsIgnoreTheirWriteData : Obligations.ReadsIgnoreTheirWriteData := by
  intro s r d rest h hk
  rw [step_request rfl, step_request h, serve_read _ hk, serve_read (r := { r with wdata := d }) _ hk]
  rfl

end Sys2Proof.Machine

/-! PROOFS for 30_encoding.md. The decoder and the encoder (R101 to R112). -/

namespace Sys2Proof

/-! ### A command word is its eight fields in a row (R101) -/

theorem bitVec_append_inj {m n : Nat} {a c : BitVec m} {b d : BitVec n} : a ++ b = c ++ d ↔ a = c ∧ b = d := by
  constructor
  · intro h
    exact ⟨by simpa only [BitVec.extractLsb'_append_eq_left] using congrArg (·.extractLsb' n m) h,
      by simpa only [BitVec.extractLsb'_append_eq_right] using congrArg (·.extractLsb' 0 n) h⟩
  · rintro ⟨rfl, rfl⟩
    rfl

/-- The eight fields of a command word, each as its bits. -/
structure Fields where
  rsvd1 : BitVec 12
  src2 : BitVec 12
  src1 : BitVec 12
  dst : BitVec 12
  rsvd0 : BitVec 2
  ctx : BitVec 2
  len : BitVec 4
  opc : BitVec 8

/-- The fields in a row, most significant first. The width is the sum of theirs, 64. -/
def Fields.join (f : Fields) : BitVec (12 + 12 + 12 + 12 + 2 + 2 + 4 + 8) :=
  f.rsvd1 ++ f.src2 ++ f.src1 ++ f.dst ++ f.rsvd0 ++ f.ctx ++ f.len ++ f.opc

/-- The fields at their places in a word. -/
def fieldsOf (w : Word) : Fields where
  rsvd1 := w.extractLsb' 52 12
  src2 := w.extractLsb' 40 12
  src1 := w.extractLsb' 28 12
  dst := w.extractLsb' 16 12
  rsvd0 := w.extractLsb' 14 2
  ctx := w.extractLsb' 12 2
  len := w.extractLsb' 8 4
  opc := w.extractLsb' 0 8

theorem join_fieldsOf (w : Word) : (fieldsOf w).join = w := by
  have join (a m b n : Nat) (h : a = b + n) : w.extractLsb' a m ++ w.extractLsb' b n = w.extractLsb' b (m + n) :=
    BitVec.extractLsb'_append_extractLsb'_eq_extractLsb' h
  rw [Fields.join, fieldsOf, join 52 12 40 12 rfl, join 40 _ 28 12 rfl, join 28 _ 16 12 rfl, join 16 _ 14 2 rfl,
    join 14 _ 12 2 rfl, join 12 _ 8 4 rfl, join 8 _ 0 8 rfl]
  exact BitVec.extractLsb'_eq_self

theorem Fields.join_and_eq_iff {f m p : Fields} :
    f.join &&& m.join = p.join ↔
      f.rsvd1 &&& m.rsvd1 = p.rsvd1 ∧ f.src2 &&& m.src2 = p.src2 ∧ f.src1 &&& m.src1 = p.src1 ∧
      f.dst &&& m.dst = p.dst ∧ f.rsvd0 &&& m.rsvd0 = p.rsvd0 ∧ f.ctx &&& m.ctx = p.ctx ∧ f.len &&& m.len = p.len ∧
      f.opc &&& m.opc = p.opc := by
  simp only [Fields.join, BitVec.and_append, bitVec_append_inj, and_assoc]

/-- The operand fields of a command. -/
structure Operands where
  len : Nat
  ctx : Slot
  dst : Nat
  src1 : Nat
  src2 : Nat

/-- Each operand fits its field (R102, R104). -/
def Operands.Fits (p : Operands) : Prop := p.len ≤ 15 ∧ p.dst ≤ 4095 ∧ p.src1 ≤ 4095 ∧ p.src2 ≤ 4095

/-- The operand fields of a word (R101). -/
def wordOperands (w : Word) : Operands :=
  { len := fieldLen w, ctx := fieldCtx w, dst := fieldDst w, src1 := fieldSrc1 w, src2 := fieldSrc2 w }

/-- The encoder's word with an opcode and operand fields. -/
def Opcode.word (o : Opcode) (p : Operands) : Word := packWord o p.len p.ctx p.dst p.src1 p.src2

/-- The encoder's word by its fields. -/
theorem Opcode.word_eq_join (o : Opcode) (p : Operands) :
    o.word p = Fields.join ⟨0, .ofNat 12 p.src2, .ofNat 12 p.src1, .ofNat 12 p.dst, 0, .ofNat 2 p.ctx.val, .ofNat 4 p.len,
      o.code⟩ := rfl

theorem ofNat_fieldCtx (w : Word) : BitVec.ofNat 2 (fieldCtx w).val = w.extractLsb' 12 2 :=
  BitVec.eq_of_toNat_eq (Nat.mod_eq_of_lt (fieldCtx w).isLt)

/-- A word is packed from its own fields when its reserved fields are 0 and its OPC is the opcode's. -/
theorem Opcode.word_wordOperands {o : Opcode} {w : Word} (hopc : fieldOpc w = o.code) (h0 : fieldRsvd0 w = 0)
    (h1 : fieldRsvd1 w = 0) : o.word (wordOperands w) = w := by
  simp only [Opcode.word_eq_join, wordOperands, ofNat_fieldCtx, fieldLen, fieldDst, fieldSrc1, fieldSrc2,
    BitVec.ofNat_toNat, BitVec.setWidth_eq, ← h0, ← h1, ← hopc]
  exact join_fieldsOf w

theorem wordOperands_fits (w : Word) : (wordOperands w).Fits :=
  ⟨Nat.le_of_lt_succ (w.extractLsb' 8 4).isLt, Nat.le_of_lt_succ (w.extractLsb' 16 12).isLt,
    Nat.le_of_lt_succ (w.extractLsb' 28 12).isLt, Nat.le_of_lt_succ (w.extractLsb' 40 12).isLt⟩

/-- Operands that fit their fields are read back from the word. -/
theorem wordOperands_word (o : Opcode) {p : Operands} (h : p.Fits) : wordOperands (o.word p) = p := by
  obtain ⟨len, ctx, dst, src1, src2⟩ := p
  obtain ⟨hlen, hdst, hsrc1, hsrc2⟩ := h
  simp only [wordOperands, Opcode.word, fieldLen_packWord, fieldCtx_packWord, fieldDst_packWord, fieldSrc1_packWord,
    fieldSrc2_packWord, Nat.mod_eq_of_lt (Nat.lt_succ_of_le hlen), Nat.mod_eq_of_lt (Nat.lt_succ_of_le hdst),
    Nat.mod_eq_of_lt (Nat.lt_succ_of_le hsrc1), Nat.mod_eq_of_lt (Nat.lt_succ_of_le hsrc2)]

/-! ### The fields that a row uses (R106) -/

/-! The columns of the table: which rows use LEN, CTX, DST, SRC1 and SRC2. -/

def Opcode.usesLen : Opcode → Bool
  | .clrctx => false
  | _ => true

def Opcode.usesCtx : Opcode → Bool
  | .cmpgte | .csel => false
  | _ => true

def Opcode.usesDst : Opcode → Bool
  | .setmod | .setmodi | .clrctx | .cmpgte => false
  | _ => true

def Opcode.usesSrc1 : Opcode → Bool
  | .clrctx => false
  | _ => true

def Opcode.usesSrc2 : Opcode → Bool
  | .setmod | .setmodi | .clrctx | .tomont | .tonorm => false
  | _ => true

/-- The operand fields that a row does not use are 0 (R106, R109). -/
def Opcode.UnusedZero (o : Opcode) (p : Operands) : Prop :=
  (o.usesLen = true ∨ p.len = 0) ∧ (o.usesCtx = true ∨ p.ctx = 0) ∧ (o.usesDst = true ∨ p.dst = 0) ∧
    (o.usesSrc1 = true ∨ p.src1 = 0) ∧ (o.usesSrc2 = true ∨ p.src2 = 0)

/-- The word's OPC is the opcode's, its reserved fields are 0 and so are the fields that the row does not use. -/
def Opcode.Legal (o : Opcode) (w : Word) : Prop :=
  fieldOpc w = o.code ∧ fieldRsvd0 w = 0 ∧ fieldRsvd1 w = 0 ∧
    o.UnusedZero (wordOperands w)

/-- A field's part of a mask: 0 for a field that is used, ones for any other. -/
def fieldMask (n : Nat) (used : Bool) : BitVec n := if used then 0 else BitVec.allOnes n

theorem and_fieldMask_eq_zero_iff {n : Nat} {x : BitVec n} {used : Bool} :
    x &&& fieldMask n used = 0 ↔ used = true ∨ x = 0 := by
  cases used <;> simp [fieldMask]

/-- The mask covers OPC, the reserved fields and the fields that the row does not use. -/
theorem Opcode.mask_eq_join (o : Opcode) :
    o.mask = Fields.join ⟨BitVec.allOnes 12, fieldMask 12 o.usesSrc2, fieldMask 12 o.usesSrc1, fieldMask 12 o.usesDst,
      BitVec.allOnes 2, fieldMask 2 o.usesCtx, fieldMask 4 o.usesLen, BitVec.allOnes 8⟩ := by
  cases o <;> decide

theorem Opcode.pattern_eq_join (o : Opcode) : o.pattern = Fields.join ⟨0, 0, 0, 0, 0, 0, 0, o.code⟩ := by
  cases o <;> decide

theorem fieldCtx_eq_zero_iff {w : Word} : fieldCtx w = 0 ↔ w.extractLsb' 12 2 = 0 :=
  BitVec.toFin_inj (y := 0)

theorem toNat_eq_zero_iff {n : Nat} {x : BitVec n} : x.toNat = 0 ↔ x = 0 := BitVec.toNat_inj (y := 0)

/-- (w AND mask) = match says the row field by field. -/
theorem Opcode.and_mask_eq_pattern_iff (o : Opcode) (w : Word) : w &&& o.mask = o.pattern ↔ o.Legal w := by
  conv_lhs => rw [← join_fieldsOf w, o.mask_eq_join, o.pattern_eq_join]
  refine Fields.join_and_eq_iff.trans ?_
  simp only [fieldsOf, and_fieldMask_eq_zero_iff, BitVec.and_allOnes, Opcode.Legal, Opcode.UnusedZero, wordOperands,
    fieldOpc, fieldRsvd0, fieldRsvd1, fieldCtx_eq_zero_iff, fieldLen, fieldDst, fieldSrc1, fieldSrc2, toNat_eq_zero_iff]
  exact ⟨fun ⟨h1, hb, ha, hd, h0, hc, hl, ho⟩ => ⟨ho, h0, h1, hl, hc, hd, ha, hb⟩,
    fun ⟨ho, h0, h1, hl, hc, hd, ha, hb⟩ => ⟨h1, hb, ha, hd, h0, hc, hl, ho⟩⟩

/-! ### Commands and their operands -/

/-- The operands of a command, 0 in the fields that it does not use (R111). -/
def Instr.operands : Instr → Operands
  | .setmod len ctx src1 => ⟨len, ctx, 0, src1, 0⟩
  | .setmodi len ctx src1 => ⟨len, ctx, 0, src1, 0⟩
  | .clrctx ctx => ⟨0, ctx, 0, 0, 0⟩
  | .addmod len ctx dst src1 src2 => ⟨len, ctx, dst, src1, src2⟩
  | .submod len ctx dst src1 src2 => ⟨len, ctx, dst, src1, src2⟩
  | .mulmont len ctx dst src1 src2 => ⟨len, ctx, dst, src1, src2⟩
  | .tomont len ctx dst src1 => ⟨len, ctx, dst, src1, 0⟩
  | .tonorm len ctx dst src1 => ⟨len, ctx, dst, src1, 0⟩
  | .cmpgte len src1 src2 => ⟨len, 0, 0, src1, src2⟩
  | .csel len dst src1 src2 => ⟨len, 0, dst, src1, src2⟩

theorem encode_eq_word (i : Instr) : encode i = i.opcode.word i.operands := by
  cases i <;> rfl

theorem Instr.unusedZero_operands (i : Instr) : i.opcode.UnusedZero i.operands := by
  cases i <;> simp [Opcode.UnusedZero, Instr.opcode, Instr.operands, Opcode.usesLen, Opcode.usesCtx, Opcode.usesDst,
    Opcode.usesSrc1, Opcode.usesSrc2]

theorem Instr.wellFormed_iff_fits (i : Instr) : i.wellFormed = true ↔ i.operands.Fits := by
  cases i <;> simp [Instr.wellFormed, Instr.operands, Operands.Fits, lenFits, offsetFits, and_assoc]

theorem buildInstr_opcode (o : Opcode) (w : Word) : (buildInstr o w).opcode = o := by
  cases o <;> rfl

theorem buildInstr_operands {o : Opcode} {w : Word} (h : o.UnusedZero (wordOperands w)) :
    (buildInstr o w).operands = wordOperands w := by
  cases o <;> simp_all [buildInstr, wordOperands, Instr.operands, Opcode.UnusedZero, Opcode.usesLen, Opcode.usesCtx,
    Opcode.usesDst, Opcode.usesSrc1, Opcode.usesSrc2]

/-- A row's command is determined by the operands of the word. -/
theorem buildInstr_of_operands {i : Instr} {w : Word} (h : wordOperands w = i.operands) : buildInstr i.opcode w = i := by
  cases i <;> simp_all [buildInstr, wordOperands, Instr.operands, Instr.opcode]

/-! ### What decode reads (R108) -/

/-- A word decodes to the command of the one row that it matches. -/
theorem decode_eq_ok_iff {w : Word} {i : Instr} : decode w = .ok i ↔ ∃ o : Opcode, o.Legal w ∧ buildInstr o w = i := by
  constructor
  · intro h
    unfold decode at h
    split at h
    · simp at h
    · rename_i o _
      split_ifs at h with hm
      exact ⟨o, (o.and_mask_eq_pattern_iff w).1 hm, Except.ok.inj h⟩
  · rintro ⟨o, hlegal, rfl⟩
    exact decode_of_opcodeOf (hlegal.1 ▸ opcodeOf_code o) ((o.and_mask_eq_pattern_iff w).2 hlegal)

theorem decode_of_legal {w : Word} {o : Opcode} (h : o.Legal w) : decode w = .ok (buildInstr o w) :=
  decode_eq_ok_iff.2 ⟨o, h, rfl⟩

/-- A word that matches no row is no command (R108). -/
theorem decode_of_not_legal {w : Word} (h : ∀ o : Opcode, ¬ o.Legal w) : ∃ e, decode w = .error e := by
  cases hd : decode w with
  | error e => exact ⟨e, rfl⟩
  | ok i =>
    obtain ⟨o, ho, -⟩ := decode_eq_ok_iff.1 hd
    exact absurd ho (h o)

theorem encode_buildInstr {o : Opcode} {w : Word} (h : o.Legal w) : encode (buildInstr o w) = w := by
  obtain ⟨hopc, h0, h1, hunused⟩ := h
  rw [encode_eq_word, buildInstr_opcode, buildInstr_operands hunused, Opcode.word_wordOperands hopc h0 h1]

theorem legal_encode {i : Instr} (h : i.operands.Fits) : i.opcode.Legal (encode i) := by
  rw [encode_eq_word]
  refine ⟨fieldOpc_packWord .., fieldRsvd0_packWord .., fieldRsvd1_packWord .., ?_⟩
  rw [wordOperands_word _ h]
  exact i.unusedZero_operands

/-! ### The obligations -/

/-- Settles O1: the encoding meets its row field by field, and its operands are read back. -/
theorem decodeOfEncodeIsTheCommand : Obligations.DecodeOfEncodeIsTheCommand := by
  intro i hwf
  have hfits := i.wellFormed_iff_fits.1 hwf
  rw [decode_of_legal (legal_encode hfits), buildInstr_of_operands]
  rw [encode_eq_word, wordOperands_word _ hfits]

/-- Settles O2: a word that meets a row is the row's code and its own operands, and these fit. -/
theorem encodeOfDecodeIsTheWord : Obligations.EncodeOfDecodeIsTheWord := by
  intro w i h
  obtain ⟨o, hlegal, rfl⟩ := decode_eq_ok_iff.1 h
  refine ⟨encode_buildInstr hlegal, (buildInstr o w).wellFormed_iff_fits.2 ?_⟩
  obtain ⟨-, -, -, hunused⟩ := hlegal
  rw [buildInstr_operands hunused]
  exact wordOperands_fits w

/-- Settles O3: a row's mask and match say the row field by field, and a word decodes to the row that it meets. -/
theorem wordSelectsExactlyTheMatchingRow : Obligations.WordSelectsExactlyTheMatchingRow := by
  refine ⟨rfl, fun w o => ?_, fun s w rest hw hnone => ?_⟩
  · rw [o.and_mask_eq_pattern_iff]
    constructor
    · rintro ⟨i, hd, rfl⟩
      obtain ⟨o, hlegal, rfl⟩ := decode_eq_ok_iff.1 hd
      rwa [buildInstr_opcode]
    · exact fun hlegal => ⟨_, decode_of_legal hlegal, buildInstr_opcode o w⟩
  · obtain ⟨e, hd⟩ := decode_of_not_legal fun o hlegal => hnone o ((o.and_mask_eq_pattern_iff w).2 hlegal)
    exact Machine.step_of_decode_error hw hd

theorem Opcode.code_injective : Function.Injective Opcode.code := fun o o' h =>
  Option.some.inj (by rw [← opcodeOf_code o, h, opcodeOf_code])

/-- The OPC values of the map (R107). -/
theorem fieldOpc_mem_codes_iff {w : Word} :
    fieldOpc w ∈ [(0x01 : BitVec 8), 0x02, 0x03, 0x10, 0x11, 0x12, 0x13, 0x14, 0x20, 0x21] ↔
      ∃ o : Opcode, fieldOpc w = o.code := by
  constructor
  · intro h
    obtain ⟨o, -, ho⟩ := List.mem_map.1 (show fieldOpc w ∈ Opcode.all.map Opcode.code from h)
    exact ⟨o, ho.symm⟩
  · rintro ⟨o, ho⟩
    rw [ho]
    cases o <;> decide

/-- Settles O6: with an OPC of the map, the illegal words are those that do not meet its row. -/
theorem illegalFieldsRaiseIllegalCmd : Obligations.IllegalFieldsRaiseIllegalCmd := by
  intro s w rest hw illegal
  have hillegal : illegal ↔ ∀ o : Opcode, ¬ o.Legal w := by
    by_cases hmap : ∃ o : Opcode, fieldOpc w = o.code
    · obtain ⟨o, ho⟩ := hmap
      have hrow : (∀ o' : Opcode, ¬ o'.Legal w) ↔ ¬ o.Legal w :=
        ⟨fun h => h o, fun h o' h' => h (Opcode.code_injective (ho.symm.trans h'.1) ▸ h')⟩
      rw [hrow]
      simp only [illegal, Opcode.Legal, ho, true_and, not_and_or]
      cases o <;> simp [-not_and, not_and_or, Opcode.code, Opcode.UnusedZero, wordOperands, Opcode.usesLen, Opcode.usesCtx,
        Opcode.usesDst, Opcode.usesSrc1, Opcode.usesSrc2]
    · exact iff_of_true (.inl fun hmem => hmap (fieldOpc_mem_codes_iff.1 hmem)) fun o h => hmap ⟨o, h.1⟩
  refine ⟨fun h => ?_, fun h => ?_⟩
  · obtain ⟨e, hd⟩ := decode_of_not_legal (hillegal.1 h)
    exact Machine.step_of_decode_error hw hd
  · obtain ⟨o, hlegal⟩ : ∃ o : Opcode, o.Legal w := by
      rw [hillegal] at h
      exact not_forall_not.1 h
    have hd := decode_of_legal hlegal
    exact ⟨_, hd, Machine.step_of_decode_ok hw hd⟩

/-! ### The assembler (R111, R115) -/

/-- The assembler takes a command only when its operands fit their fields (R111). -/
theorem wellFormed_of_assemble {line : String} {i : Instr} (h : Machine.assemble line = some (.command i)) :
    i.wellFormed = true := by
  unfold Machine.assemble at h
  split at h
  · simp at h
  · split at h
    · exact (Option.filter_eq_some_iff.1 h).2
    · simp at h

/-- A line of text, its command and its word: decode follows from the other two. -/
theorem listed_word {line : String} {i : Instr} {w : Word} (htext : Machine.assemble line = some (.command i))
    (hword : encode i = w) :
    Machine.assemble line = some (.command i) ∧ encode i = w ∧ decode w = .ok i :=
  ⟨htext, hword, hword ▸ decodeOfEncodeIsTheCommand i (wellFormed_of_assemble htext)⟩

/-- Settles O4: the text and the encoding of each row are computed. -/
theorem listedWordsAssembleAndDecode : Obligations.ListedWordsAssembleAndDecode :=
  ⟨listed_word (by decide) (by decide), listed_word (by decide) (by decide), listed_word (by decide) (by decide),
    listed_word (by decide) (by decide), listed_word (by decide) (by decide), listed_word (by decide) (by decide),
    listed_word (by decide) (by decide), listed_word (by decide) (by decide), listed_word (by decide) (by decide),
    listed_word (by decide) (by decide)⟩

end Sys2Proof

/-! PROOFS for 30_encoding.md. The CIOS unit, and the commands that the expansions of max, min and mulmod run (R113, R210 to
R221, R279). -/

namespace Sys2Proof.Machine

/-! ### Words (R141, R142) -/

theorem word_toNat_zero : (0 : Word).toNat = 0 := rfl

/-- `mac` loses no bit: 2^128 − 1 is the largest t + a·b + c. -/
theorem mac_toNat (t a b c : Word) :
    (mac t a b c).2.toNat + 2 ^ 64 * (mac t a b c).1.toNat = t.toNat + a.toNat * b.toNat + c.toNat := by
  have ht := t.isLt
  have hc := c.isLt
  have hprod : a.toNat * b.toNat ≤ (2 ^ 64 - 1) * (2 ^ 64 - 1) :=
    Nat.mul_le_mul (Nat.le_sub_one_of_lt a.isLt) (Nat.le_sub_one_of_lt b.isLt)
  simp only [mac, BitVec.toNat_ofNat]
  omega

theorem splitSum_toNat (x c : Word) :
    (splitSum x c).2.toNat + 2 ^ 64 * (splitSum x c).1.toNat = x.toNat + c.toNat ∧ (splitSum x c).1.toNat ≤ 1 := by
  have hx := x.isLt
  have hc := c.isLt
  simp only [splitSum, BitVec.toNat_ofNat]
  omega

theorem sbb_toNat (x y : Word) (b : Bool) :
    (sbb x y b).2.toNat + y.toNat + b.toNat = x.toNat + 2 ^ 64 * (sbb x y b).1.toNat := by
  have hx := x.isLt
  have hy := y.isLt
  have hb := b.toNat_le
  unfold sbb
  split <;> simp only [BitVec.toNat_ofNat, Bool.toNat_true, Bool.toNat_false] <;> omega

/-! ### Rows of limbs (R144, R212) -/

/-- One inner loop adds a·b + c, its carry being the part above the limbs. -/
theorem macChain_valOf {t a : Limbs} (h : t.length = a.length) (b c : Word) :
    valOf (macChain t a b c).2 + 2 ^ (64 * t.length) * (macChain t a b c).1.toNat =
      valOf t + valOf a * b.toNat + c.toNat := by
  induction t generalizing a c with
  | nil =>
    obtain rfl := List.length_eq_zero_iff.1 h.symm
    simp [macChain]
  | cons x xs ih =>
    cases a with
    | nil => simp at h
    | cons y ys =>
      have hlow := mac_toNat x y b c
      have hrest := ih (a := ys) (by simpa using h) (mac x y b c).1
      simp only [macChain, valOf_cons, List.length_cons, two_pow_limbs_succ]
      linear_combination hlow + 2 ^ 64 * hrest

/-- The borrow chain is exact: the borrow out of it is the part that is missing. -/
theorem subChain_valOf {a b : Limbs} (h : a.length = b.length) (c : Bool) :
    valOf (subChain a b c).2 + valOf b + c.toNat = valOf a + 2 ^ (64 * a.length) * (subChain a b c).1.toNat := by
  induction a generalizing b c with
  | nil =>
    obtain rfl := List.length_eq_zero_iff.1 h.symm
    simp [subChain]
  | cons x xs ih =>
    cases b with
    | nil => simp at h
    | cons y ys =>
      have hlow := sbb_toNat x y c
      have hrest := ih (b := ys) (by simpa using h) (sbb x y c).1
      simp only [subChain, valOf_cons, List.length_cons, two_pow_limbs_succ]
      linear_combination hlow + 2 ^ 64 * hrest

/-- `SubL` borrows exactly when a < b, and gives a − b then with 2^(64·L) added. -/
theorem subL_valOf {a b : Limbs} (h : a.length = b.length) :
    (subL a b).1 = decide (valOf a < valOf b) ∧
      valOf (subL a b).2 + valOf b = valOf a + if valOf a < valOf b then 2 ^ (64 * a.length) else 0 := by
  have hlen : (subL a b).2.length = a.length := subChain_length h false
  have hd := valOf_lt (subL a b).2
  have hb := valOf_lt b
  have hsub : valOf (subL a b).2 + valOf b + 0 = valOf a + 2 ^ (64 * a.length) * (subL a b).1.toNat := subChain_valOf h false
  rw [hlen] at hd
  rw [← h] at hb
  cases hbor : (subL a b).1 with
  | false =>
    rw [hbor, Bool.toNat_false] at hsub
    have hge : ¬ valOf a < valOf b := by omega
    simp only [hge, decide_false, if_false, true_and]
    omega
  | true =>
    rw [hbor, Bool.toNat_true] at hsub
    have hlt : valOf a < valOf b := by omega
    simp only [hlt, decide_true, if_true, true_and]
    omega

/-! ### One iteration (R213 to R217) -/

section
variable {t : Acc} {x n : Limbs} {ninv yi m : Word}

/-- Step 1 adds X·y[i]. -/
theorem ciosStep1_val (h : t.lo.length = x.length) (hzero : t.tL1 = 0) :
    (ciosStep1 t x yi).val = t.val + valOf x * yi.toNat := by
  have hrow := macChain_valOf h yi 0
  obtain ⟨hsum, -⟩ := splitSum_toNat t.tL (macChain t.lo x yi 0).1
  simp only [Acc.val, ciosStep1, macChain_length h, hzero, word_toNat_zero] at hrow hsum ⊢
  linear_combination hrow + 2 ^ (64 * t.lo.length) * hsum

theorem ciosStep1_length (h : t.lo.length = x.length) : (ciosStep1 t x yi).lo.length = t.lo.length :=
  macChain_length h yi 0

theorem ciosStep1_tL1_le : (ciosStep1 t x yi).tL1.toNat ≤ 1 := (splitSum_toNat _ _).2

/-- Step 3 adds m·N, and no word overflows. -/
theorem ciosStep3_val (h : t.lo.length = n.length) (hle : t.tL1.toNat ≤ 1) :
    (ciosStep3 t n m).val = t.val + m.toNat * valOf n := by
  have hrow := macChain_valOf h m 0
  obtain ⟨hsum, hcarry⟩ := splitSum_toNat t.tL (macChain t.lo n m 0).1
  have htop : (t.tL1 + (splitSum t.tL (macChain t.lo n m 0).1).1).toNat =
      t.tL1.toNat + (splitSum t.tL (macChain t.lo n m 0).1).1.toNat := by
    rw [BitVec.toNat_add]
    omega
  simp only [Acc.val, ciosStep3, macChain_length h, htop, word_toNat_zero] at hrow ⊢
  linear_combination hrow + 2 ^ (64 * t.lo.length) * hsum

theorem ciosStep3_length (h : t.lo.length = n.length) : (ciosStep3 t n m).lo.length = t.lo.length :=
  macChain_length h m 0

/-- The low word of an accumulator that has one. -/
theorem Acc.val_mod_limb (h : 1 ≤ t.lo.length) : t.val % 2 ^ 64 = (t.lo.headD 0).toNat := by
  obtain ⟨l, hl⟩ : ∃ l, t.lo.length = l + 1 := ⟨t.lo.length - 1, by omega⟩
  rw [Acc.val, hl, two_pow_limbs_succ, Nat.mul_assoc, Nat.add_mul_mod_self_left, valOf_mod_limb]

/-- Step 2 takes the m that makes the low word of step 3 zero. -/
theorem ciosStep3_low (h : t.lo.length = n.length) (hpos : 1 ≤ n.length) (hle : t.tL1.toNat ≤ 1)
    (hninv : (valOf n * ninv.toNat + 1) % 2 ^ 64 = 0) :
    (ciosStep3 t n (ciosStep2 t ninv)).lo.headD 0 = 0 := by
  have hlen : 1 ≤ (ciosStep3 t n (ciosStep2 t ninv)).lo.length := by rw [ciosStep3_length h]; omega
  have hm : (ciosStep2 t ninv).toNat ≡ ninv.toNat * t.val [MOD 2 ^ 64] := by
    rw [ciosStep2, BitVec.toNat_mul, ← Acc.val_mod_limb (by omega)]
    exact (Nat.mod_modEq _ _).trans ((Nat.mod_modEq _ _).mul_left _)
  have hinv : valOf n * ninv.toNat + 1 ≡ 0 [MOD 2 ^ 64] := hninv.trans (Nat.zero_mod _).symm
  have hval : (ciosStep3 t n (ciosStep2 t ninv)).val ≡ 0 [MOD 2 ^ 64] :=
    calc (ciosStep3 t n (ciosStep2 t ninv)).val
        = t.val + (ciosStep2 t ninv).toNat * valOf n := ciosStep3_val h hle
      _ ≡ t.val + ninv.toNat * t.val * valOf n [MOD 2 ^ 64] := (hm.mul_right _).add_left _
      _ = (valOf n * ninv.toNat + 1) * t.val := by ring
      _ ≡ 0 * t.val [MOD 2 ^ 64] := hinv.mul_right _
      _ = 0 := Nat.zero_mul _
  apply BitVec.eq_of_toNat_eq
  rw [← Acc.val_mod_limb hlen]
  exact hval

/-- Step 4 divides by 2^64. -/
theorem ciosStep4_val (hpos : 1 ≤ t.lo.length) (hlow : t.lo.headD 0 = 0) : (ciosStep4 t).val * 2 ^ 64 = t.val := by
  obtain ⟨lo, tL, tL1⟩ := t
  cases lo with
  | nil => simp at hpos
  | cons z zs =>
    obtain rfl : z = 0 := hlow
    simp only [Acc.val, ciosStep4, List.tail_cons, valOf_append_limb, valOf_cons, List.length_append, List.length_cons,
      List.length_nil, two_pow_limbs_succ, word_toNat_zero, Nat.zero_add]
    ring

end

/-- What the accumulator keeps from one iteration to the next (R217): its length, T[L+1] = 0, and a value below N + X. -/
structure Acc.Reduced (x n : Limbs) (t : Acc) : Prop where
  length : t.lo.length = n.length
  top : t.tL1 = 0
  below : t.val < valOf n + valOf x

section
variable {t : Acc} {x n : Limbs} {ninv : Word}

/-- One iteration divides T + X·y[i] + m·N by 2^64 exactly, for some word m, and keeps the accumulator reduced. -/
theorem ciosRound_spec (hx : x.length = n.length) (hpos : 1 ≤ n.length)
    (hninv : (valOf n * ninv.toNat + 1) % 2 ^ 64 = 0) (ht : t.Reduced x n) (yi : Word) :
    (ciosRound x n ninv t yi).Reduced x n ∧
      ∃ m < 2 ^ 64, (ciosRound x n ninv t yi).val * 2 ^ 64 = t.val + valOf x * yi.toNat + m * valOf n := by
  have hlen : t.lo.length = x.length := ht.length.trans hx.symm
  have hlen1 : (ciosStep1 t x yi).lo.length = n.length := (ciosStep1_length hlen).trans ht.length
  have h1 : (ciosStep1 t x yi).val = t.val + valOf x * yi.toNat := ciosStep1_val hlen ht.top
  have h3 := ciosStep3_val (m := ciosStep2 (ciosStep1 t x yi) ninv) hlen1 ciosStep1_tL1_le
  have hlow := ciosStep3_low hlen1 hpos ciosStep1_tL1_le hninv
  have hval : (ciosRound x n ninv t yi).val * 2 ^ 64 =
      t.val + valOf x * yi.toNat + (ciosStep2 (ciosStep1 t x yi) ninv).toNat * valOf n := by
    rw [← h1, ← h3]
    exact ciosStep4_val (by rw [ciosStep3_length hlen1]; omega) hlow
  obtain ⟨hshape, htop⟩ := ciosRound_shape hx ht.length (List.length_pos_iff.1 hpos) ninv yi
  refine ⟨⟨hshape, htop, ?_⟩, _, BitVec.isLt _, hval⟩
  have hy : valOf x * yi.toNat ≤ valOf x * (2 ^ 64 - 1) := Nat.mul_le_mul_left _ (Nat.le_sub_one_of_lt yi.isLt)
  have hm : (ciosStep2 (ciosStep1 t x yi) ninv).toNat * valOf n ≤ (2 ^ 64 - 1) * valOf n :=
    Nat.mul_le_mul_right _ (Nat.le_sub_one_of_lt (BitVec.isLt _))
  have hbelow := ht.below
  omega

/-- The iterations over the limbs of y divide T + X·Y + M·N by 2^64 once for each limb. -/
theorem foldl_ciosRound_spec (hx : x.length = n.length) (hpos : 1 ≤ n.length)
    (hninv : (valOf n * ninv.toNat + 1) % 2 ^ 64 = 0) (ht : t.Reduced x n) (y : Limbs) :
    (y.foldl (ciosRound x n ninv) t).Reduced x n ∧
      ∃ M < 2 ^ (64 * y.length),
        (y.foldl (ciosRound x n ninv) t).val * 2 ^ (64 * y.length) = t.val + valOf x * valOf y + M * valOf n := by
  induction y generalizing t with
  | nil => exact ⟨ht, 0, by simp, by simp⟩
  | cons yi ys ih =>
    obtain ⟨hround, m, hm, hval⟩ := ciosRound_spec hx hpos hninv ht yi
    obtain ⟨hrest, M, hM, hvals⟩ := ih hround
    refine ⟨hrest, m + 2 ^ 64 * M, ?_, ?_⟩
    · rw [List.length_cons, two_pow_limbs_succ]
      omega
    · rw [List.foldl_cons, List.length_cons, two_pow_limbs_succ, valOf_cons]
      linear_combination hval + 2 ^ 64 * hvals

end

theorem valOf_replicate_zero (len : Nat) : valOf (List.replicate len 0) = 0 := by
  induction len with
  | zero => rfl
  | succ len ih => rw [List.replicate_succ, valOf_cons, ih]; rfl

section
variable {x y n : Limbs} {ninv : Word}

/-- Before the correction T·R = X·Y + M·N for some M below R (R221). -/
theorem ciosLoop_spec (hx : x.length = n.length) (hy : y.length = n.length) (hpos : 1 ≤ n.length)
    (hninv : (valOf n * ninv.toNat + 1) % 2 ^ 64 = 0) :
    (ciosLoop x y n ninv).Reduced x n ∧
      ∃ M < 2 ^ (64 * n.length),
        (ciosLoop x y n ninv).val * 2 ^ (64 * n.length) = valOf x * valOf y + M * valOf n := by
  have hN : valOf n ≠ 0 := fun h => by simp [h] at hninv
  have hzero : ({ lo := List.replicate x.length 0, tL := 0, tL1 := 0 } : Acc).val = 0 := by
    simp only [Acc.val, valOf_replicate_zero, word_toNat_zero, Nat.mul_zero, Nat.add_zero]
  have hspec := foldl_ciosRound_spec hx hpos hninv (y := y)
    (t := { lo := List.replicate x.length 0, tL := 0, tL1 := 0 }) ⟨by simpa using hx, rfl, by omega⟩
  rwa [hzero, Nat.zero_add, hy] at hspec

/-- The final correction subtracts N once where the accumulator is not below it; branch A leaves no word above the L limbs
since the accumulator is below 2N (R218, R219). -/
theorem finalCorrection_spec {t : Acc} (hlen : t.lo.length = n.length) (htop : t.tL1 = 0) (hbelow : t.val < 2 * valOf n) :
    ∃ z, finalCorrection t n = .ok z ∧ valOf z < valOf n ∧ (t.val = valOf z ∨ t.val = valOf z + valOf n) := by
  obtain ⟨hborrow, hsub⟩ := subL_valOf hlen
  have hlo := valOf_lt t.lo
  have hn := valOf_lt n
  have hval : t.val = valOf t.lo + 2 ^ (64 * n.length) * t.tL.toNat := by
    simp [Acc.val, htop, hlen]
  rw [hlen] at hsub hlo
  unfold finalCorrection
  by_cases htL : t.tL = 0
  · rw [htL, word_toNat_zero] at hval
    rw [if_neg (not_not.2 htL), gteL_eq hlen]
    by_cases hge : valOf n ≤ valOf t.lo
    · rw [if_neg (by omega)] at hsub
      exact ⟨_, if_pos (by simpa using hge), by omega, by omega⟩
    · exact ⟨_, if_neg (by simpa using hge), by omega, by omega⟩
  · have hone : t.tL.toNat = 1 := by
      have hpos : t.tL.toNat ≠ 0 := fun h => htL (BitVec.eq_of_toNat_eq h)
      have htwo : ¬ 2 ≤ t.tL.toNat := fun h => by
        have := Nat.mul_le_mul_left (2 ^ (64 * n.length)) h
        omega
      omega
    rw [hone] at hval
    have hlt : valOf t.lo < valOf n := by omega
    rw [if_pos hlt] at hsub
    have hnone : ¬ (t.tL.toNat - (subL t.lo n).1.toNat ≠ 0 ∨ t.tL1 ≠ 0) := by
      rw [hborrow, hone, htop]
      simp [hlt]
    exact ⟨_, (if_pos htL).trans (if_neg hnone), by omega, by omega⟩

/-- The law of the CIOS unit: it gives the t below N with t·R ≡ X·Y (mod N) (R210, R221). -/
theorem cios_spec (hx : x.length = n.length) (hy : y.length = n.length) (hpos : 1 ≤ n.length)
    (hninv : (valOf n * ninv.toNat + 1) % 2 ^ 64 = 0) (hxy : valOf x * valOf y < valOf n * 2 ^ (64 * n.length)) :
    ∃ z, cios x y n ninv = .ok z ∧ valOf z < valOf n ∧
      valOf z * 2 ^ (64 * n.length) ≡ valOf x * valOf y [MOD valOf n] := by
  obtain ⟨hred, M, hM, hval⟩ := ciosLoop_spec hx hy hpos hninv
  have hbelow : (ciosLoop x y n ninv).val < 2 * valOf n := by
    have hMN : M * valOf n ≤ 2 ^ (64 * n.length) * valOf n := Nat.mul_le_mul_right _ hM.le
    refine Nat.lt_of_mul_lt_mul_right (a := 2 ^ (64 * n.length)) ?_
    rw [hval]
    linarith
  obtain ⟨z, hz, hlt, hcases⟩ := finalCorrection_spec hred.length hred.top hbelow
  refine ⟨z, hz, hlt, ?_⟩
  have hmod : valOf z ≡ (ciosLoop x y n ninv).val [MOD valOf n] := by
    rcases hcases with h | h <;> rw [h]
    simp [Nat.ModEq]
  calc valOf z * 2 ^ (64 * n.length)
      ≡ (ciosLoop x y n ninv).val * 2 ^ (64 * n.length) [MOD valOf n] := hmod.mul_right _
    _ = valOf x * valOf y + M * valOf n := hval
    _ ≡ valOf x * valOf y [MOD valOf n] := by simp [Nat.ModEq]

end

/-! ### The modulus of a slot (R48) -/

section
variable {c : Context}

theorem Context.modLimbs_length {len : Nat} (h : len ≤ 12) : (c.modLimbs len).length = len := by
  simpa [Context.modLimbs] using h

theorem Context.r2Limbs_length {len : Nat} (h : len ≤ 12) : (c.r2Limbs len).length = len := by
  simpa [Context.r2Limbs] using h

theorem Context.Sound.modulus_pos (h : c.Sound) : 0 < c.modulus :=
  Nat.pos_of_ne_zero fun h0 => by simpa [h0] using h.modInvRight

/-- N is odd: −1 is a multiple of it modulo 2^64. -/
theorem Context.Sound.modulus_odd (h : c.Sound) : c.modulus % 2 = 1 := by
  have hinv := h.modInvRight
  rcases Nat.even_or_odd' c.modulus with ⟨m, hm | hm⟩
  · rw [hm, Nat.mul_assoc] at hinv
    omega
  · omega

theorem Context.Sound.coprime_two_pow (h : c.Sound) (e : Nat) : Nat.Coprime c.modulus (2 ^ e) :=
  Nat.Coprime.pow_right e (Nat.coprime_two_right.2 (Nat.odd_iff.2 h.modulus_odd))

theorem Context.Sound.modulus_lt (h : c.Sound) : c.modulus < 2 ^ (64 * c.len.toNat) := by
  have := valOf_lt (c.modLimbs c.len.toNat)
  rwa [Context.modLimbs_length h.lenLe] at this

end

/-! ### MULMONT and TOMONT in a state that meets the invariant -/

section
variable {s : State} {len : Nat} {k : Slot} {dst src1 src2 : Nat}

theorem State.Inv.sound_of_contextReady (hs : s.Inv) (hk : s.contextReady k len) : (s.slot k).Sound :=
  hs.slotSound k hk.1

/-- The shared body of ADDMOD, SUBMOD and MULMONT when every check holds. -/
theorem binaryBody_eq_ok {core : Limbs → Limbs → Limbs → Word → Except ErrCode Limbs} {z : Limbs} (hs : s.Inv)
    (hk : s.contextReady k len) (h1 : src1 + 8 * len ≤ 4096) (h2 : src2 + 8 * len ≤ 4096) (hd : dst + 8 * len ≤ 4096)
    (hx : s.memRead src1 (8 * len) < s.modulus k) (hy : s.memRead src2 (8 * len) < s.modulus k)
    (hz : core (s.loadOperand src1 len) (s.loadOperand src2 len) ((s.slot k).modLimbs len) (s.slot k).modInv = .ok z) :
    binaryBody core len k dst src1 src2 s = .ok (s.storeOperand dst len z) := by
  obtain ⟨hvalid, rfl⟩ := hk
  have hN := Context.modLimbs_length (c := s.slot k) (hs.slotSound k hvalid).lenLe
  have hbelow {src : Nat} (h : s.memRead src (8 * (s.slot k).len.toNat) < s.modulus k) :
      gteL (s.loadOperand src (s.slot k).len.toNat) ((s.slot k).modLimbs (s.slot k).len.toNat) = false := by
    rw [gteL_eq (by rw [State.loadOperand_length, hN]), State.valOf_loadOperand]
    exact decide_eq_false (Nat.not_le.2 h)
  simp only [binaryBody, checkCtx_eq_ok, checkRange_eq_ok, checkBelow_eq_ok]
  exact ⟨hvalid, trivial, h1, h2, hd, ⟨hbelow hx, hbelow hy⟩, by rw [hz]⟩

/-- The shared body of TOMONT and TONORM when every check holds. -/
theorem unaryBody_eq_ok {core : Limbs → Context → Except ErrCode Limbs} {z : Limbs} (hk : s.contextReady k len)
    (h1 : src1 + 8 * len ≤ 4096) (hd : dst + 8 * len ≤ 4096) (hz : core (s.loadOperand src1 len) (s.slot k) = .ok z) :
    unaryBody core len k dst src1 s = .ok (s.storeOperand dst len z) := by
  obtain ⟨hvalid, hlen⟩ := hk
  simp only [unaryBody, checkCtx_eq_ok, checkRange_eq_ok]
  exact ⟨hvalid, hlen, h1, hd, by rw [hz]⟩

/-- The CIOS unit on the context of a slot. -/
theorem State.Inv.cios_slot (hs : s.Inv) (hk : s.contextReady k len) {x y : Limbs} (hx : x.length = len)
    (hy : y.length = len) (hxy : valOf x * valOf y < s.modulus k * 2 ^ (64 * len)) :
    ∃ z, cios x y ((s.slot k).modLimbs len) (s.slot k).modInv = .ok z ∧ valOf z < s.modulus k ∧
      valOf z * 2 ^ (64 * len) ≡ valOf x * valOf y [MOD s.modulus k] := by
  obtain ⟨hvalid, rfl⟩ := hk
  have hsound := hs.slotSound k hvalid
  have hN := Context.modLimbs_length (c := s.slot k) hsound.lenLe
  have hspec := cios_spec (hx.trans hN.symm) (hy.trans hN.symm) (hsound.lenPos.trans_eq hN.symm) hsound.modInvRight
  rw [hN] at hspec
  exact hspec hxy

/-- MULMONT writes the t below N with t·R ≡ x·y (mod N). -/
theorem exec_mulmont (hs : s.Inv) (hk : s.contextReady k len) (h1 : src1 + 8 * len ≤ 4096) (h2 : src2 + 8 * len ≤ 4096)
    (hd : dst + 8 * len ≤ 4096) (hx : s.memRead src1 (8 * len) < s.modulus k)
    (hy : s.memRead src2 (8 * len) < s.modulus k) :
    ∃ t, t < s.modulus k ∧
      t * 2 ^ (64 * len) ≡ s.memRead src1 (8 * len) * s.memRead src2 (8 * len) [MOD s.modulus k] ∧
      exec (.mulmont len k dst src1 src2) s = .next { s.memWrite dst (8 * len) t with err := 0 } := by
  have hxy : valOf (s.loadOperand src1 len) * valOf (s.loadOperand src2 len) < s.modulus k * 2 ^ (64 * len) := by
    rw [State.valOf_loadOperand, State.valOf_loadOperand]
    exact Nat.mul_lt_mul_of_lt_of_le hx (s.memRead_limbs_lt src2 len).le (by positivity)
  obtain ⟨z, hz, hlt, hmod⟩ := hs.cios_slot hk (s.loadOperand_length src1 len) (s.loadOperand_length src2 len) hxy
  rw [State.valOf_loadOperand, State.valOf_loadOperand] at hmod
  refine ⟨valOf z, hlt, hmod, ?_⟩
  rw [exec, execMulmont, binaryBody_eq_ok hs hk h1 h2 hd hx hy hz]
  rfl

/-- TOMONT writes x·R mod N for every x: its second operand is R² mod N, and N has an inverse of R. -/
theorem exec_tomont (hs : s.Inv) (hk : s.contextReady k len) (h1 : src1 + 8 * len ≤ 4096) (hd : dst + 8 * len ≤ 4096) :
    exec (.tomont len k dst src1) s =
      .next { s.memWrite dst (8 * len) (s.memRead src1 (8 * len) * 2 ^ (64 * len) % s.modulus k) with err := 0 } := by
  have hsound := hs.sound_of_contextReady hk
  have hlen := hk.2
  have hr2 : valOf ((s.slot k).r2Limbs len) = 2 ^ (128 * len) % s.modulus k := hlen ▸ hsound.r2Right
  have hR : 2 ^ (128 * len) = 2 ^ (64 * len) * 2 ^ (64 * len) := by rw [← pow_add]; congr 1; omega
  have hxy : valOf (s.loadOperand src1 len) * valOf ((s.slot k).r2Limbs len) < s.modulus k * 2 ^ (64 * len) := by
    rw [State.valOf_loadOperand, hr2, Nat.mul_comm]
    exact Nat.mul_lt_mul_of_lt_of_le (Nat.mod_lt _ hsound.modulus_pos) (s.memRead_limbs_lt src1 len).le (by positivity)
  obtain ⟨z, hz, hlt, hmod⟩ :=
    hs.cios_slot hk (s.loadOperand_length src1 len) (Context.r2Limbs_length (hlen ▸ hsound.lenLe)) hxy
  have hval : valOf z = s.memRead src1 (8 * len) * 2 ^ (64 * len) % s.modulus k := by
    have hcancel : valOf z * 2 ^ (64 * len) ≡
        s.memRead src1 (8 * len) * 2 ^ (64 * len) * 2 ^ (64 * len) [MOD s.modulus k] := by
      rw [State.valOf_loadOperand, hr2, hR] at hmod
      rw [Nat.mul_assoc]
      exact hmod.trans ((Nat.mod_modEq _ _).mul_left _)
    have heq : valOf z ≡ s.memRead src1 (8 * len) * 2 ^ (64 * len) [MOD s.modulus k] :=
      Nat.ModEq.cancel_right_of_coprime (hsound.coprime_two_pow _) hcancel
    rw [← heq, Nat.mod_eq_of_lt hlt]
  rw [exec, execTomont, unaryBody_eq_ok hk h1 hd hz, ← hval]
  rfl

end

/-! ### The expansions (R113) -/

/-- A buffer reads back a value that fits it from the state a command leaves. -/
theorem State.memRead_stored (s : State) (off : Nat) {len v : Nat} (h : v < 2 ^ (64 * len)) :
    ({ s.memWrite off (8 * len) v with err := 0 } : State).memRead off (8 * len) = v := by
  have hkept : ({ s.memWrite off (8 * len) v with err := 0 } : State).memRead off (8 * len) =
      (s.memWrite off (8 * len) v).memRead off (8 * len) := State.memRead_congr fun _ _ _ => rfl
  rw [hkept, State.memRead_memWrite_self, ← two_pow_limb_place, Nat.mod_eq_of_lt h]

/-- Settles O20: MULMONT leaves p with p·R ≡ a·b, and TOMONT makes p·R mod N of it. -/
theorem mulmodExpansionMultiplies : Obligations.MulmodExpansionMultiplies := by
  intro s len k dst a b hs hk ha hb hd hx hy
  obtain ⟨p, hp, hmod, hmul⟩ := exec_mulmont hs hk ha hb hd hx hy
  have hsound := hs.sound_of_contextReady hk
  have hN : s.modulus k < 2 ^ (64 * len) := hk.2 ▸ hsound.modulus_lt
  have hslot : ({ s.memWrite dst (8 * len) p with err := 0 } : State).slot k = s.slot k := s.slot_memWrite _ _ _ k
  have hk' : ({ s.memWrite dst (8 * len) p with err := 0 } : State).contextReady k len := by
    rwa [State.contextReady, hslot]
  have hto := exec_tomont (exec_inv hs hmul) hk' hd hd
  rw [State.memRead_stored s dst (hp.trans hN), State.modulus, hslot] at hto
  refine ⟨rfl, _, _, hmul, hto, rfl, rfl, ?_⟩
  rw [State.memRead_stored _ dst ((Nat.mod_lt _ hsound.modulus_pos).trans hN)]
  exact hmod

/-- CMPGTE completes when its checks hold. -/
theorem exec_cmpgte_ok {s : State} {len a b : Nat} (hmin : 1 ≤ len) (hmax : len ≤ 12) (ha : a + 8 * len ≤ 4096)
    (hb : b + 8 * len ≤ 4096) :
    exec (.cmpgte len a b) s = .next (s.setGte (decide (s.memRead b (8 * len) ≤ s.memRead a (8 * len)))).succeed := by
  have hbody : cmpgteBody len a b s = .ok (s.setGte (decide (s.memRead b (8 * len) ≤ s.memRead a (8 * len)))) := by
    simp only [cmpgteBody, checkLimbCount_eq_ok, checkRange_eq_ok]
    exact ⟨⟨hmin, hmax⟩, ha, hb, by rw [State.gteL_loadOperand]⟩
  rw [exec, execCmpgte, hbody, finish_ok]

/-- CSEL leaves the selected operand in DST, and GTE as it was. -/
theorem exec_csel_ok {s : State} {len dst a b : Nat} (hmin : 1 ≤ len) (hmax : len ≤ 12) (ha : a + 8 * len ≤ 4096)
    (hb : b + 8 * len ≤ 4096) (hd : dst + 8 * len ≤ 4096) :
    ∃ t, exec (.csel len dst a b) s = .next t ∧
      t.memRead dst (8 * len) = (if s.gte then s.memRead a (8 * len) else s.memRead b (8 * len)) ∧
      t.gte = s.gte ∧ t.err = 0 := by
  refine ⟨_, cselWritesTheSelectedOperand s len dst a b hmin hmax ha hb hd, s.memRead_stored dst ?_, by simp, rfl⟩
  split <;> exact s.memRead_limbs_lt _ len

/-- Settles O19: CSEL stores the operand that CMPGTE's flag names, in either order of the operands. -/
theorem maxAndMinExpansions : Obligations.MaxAndMinExpansions := by
  intro s len dst a b hmin hmax ha hb hd
  obtain ⟨t, hcmp, hread, hgte⟩ : ∃ t, exec (.cmpgte len a b) s = .next t ∧
      (∀ off, t.memRead off (8 * len) = s.memRead off (8 * len)) ∧
      t.gte = decide (s.memRead b (8 * len) ≤ s.memRead a (8 * len)) :=
    ⟨_, exec_cmpgte_ok hmin hmax ha hb, fun _ => State.memRead_congr fun _ _ _ => rfl, rfl⟩
  obtain ⟨u, hu, hmaxval, hugte, huerr⟩ := exec_csel_ok (s := t) hmin hmax ha hb hd
  obtain ⟨v, hv, hminval, hvgte, hverr⟩ := exec_csel_ok (s := t) hmin hmax hb ha hd
  rw [hread, hread, hgte] at hmaxval hminval
  simp only [decide_eq_true_eq] at hmaxval hminval
  refine ⟨rfl, rfl, t, u, v, hcmp, hu, hv, ?_, ?_, hugte.trans hgte, hvgte.trans hugte.symm, huerr, hverr⟩
  · rw [hmaxval, max_comm, max_def]
  · rw [hminval, min_comm, min_def]

end Sys2Proof.Machine

/-! PROOFS for 40_limb_primitives.md. The datapath units on words and limb arrays (R140 to R149), and the errors of CMPGTE and
CSEL (R153, R163). -/

namespace Sys2Proof.Machine

/-! ### Words and rows of limbs (R140, R143) -/

theorem adc_toNat (x y : Word) (c : Bool) :
    (adc x y c).2.toNat + 2 ^ 64 * (adc x y c).1.toNat = x.toNat + y.toNat + c.toNat := by
  have hx := x.isLt
  have hy := y.isLt
  have hc := c.toNat_le
  by_cases hcarry : 2 ^ 64 ≤ x.toNat + y.toNat + c.toNat
  · simp only [adc, BitVec.toNat_ofNat, decide_eq_true hcarry, Bool.toNat_true]
    omega
  · simp only [adc, BitVec.toNat_ofNat, decide_eq_false hcarry, Bool.toNat_false]
    omega

/-- The carry chain is exact: the carry out of it is the part above the limbs. -/
theorem addChain_valOf {a b : Limbs} (h : a.length = b.length) (c : Bool) :
    valOf (addChain a b c).2 + 2 ^ (64 * a.length) * (addChain a b c).1.toNat = valOf a + valOf b + c.toNat := by
  induction a generalizing b c with
  | nil =>
    obtain rfl := List.length_eq_zero_iff.1 h.symm
    simp [addChain]
  | cons x xs ih =>
    cases b with
    | nil => simp at h
    | cons y ys =>
      have hlow := adc_toNat x y c
      have hrest := ih (b := ys) (by simpa using h) (adc x y c).1
      simp only [addChain, valOf_cons, List.length_cons, two_pow_limbs_succ]
      linear_combination hlow + 2 ^ 64 * hrest

/-! ### The code that a step leaves in ERR -/

/-- The completion code of a command's body: 0 when it succeeds (R117), else the code of the check that failed (R303). -/
def bodyCode : Except ErrCode State → BitVec 4
  | .ok _ => 0
  | .error c => c.code

@[simp] theorem bodyCode_ok (s : State) : bodyCode (.ok s) = 0 := rfl

theorem bodyCode_require (p : Bool) (c : ErrCode) (r : Except ErrCode State) :
    bodyCode (require p c r) = if p then bodyCode r else c.code := by
  cases p <;> rfl

theorem bodyCode_checkLimbCount (len : Nat) (c : ErrCode) (r : Except ErrCode State) :
    bodyCode (checkLimbCount len c r) = if len < 1 ∨ 12 < len then c.code else bodyCode r := by
  rw [checkLimbCount, bodyCode_require, ← ite_not]
  exact if_congr (by rw [limbCountOk_iff]; omega) rfl rfl

theorem bodyCode_checkRange (off n : Nat) (r : Except ErrCode State) :
    bodyCode (checkRange off n r) = if 4096 < off + n then 4 else bodyCode r := by
  rw [checkRange, bodyCode_require, ← ite_not]
  exact if_congr (by rw [inBounds_iff]; omega) rfl rfl

/-- A command leaves its body's code in ERR. -/
theorem finish_err (failed : State) (body : Except ErrCode State) :
    ∃ t, finish failed body = .next t ∧ t.err = bodyCode body := by
  cases body with
  | ok u => exact ⟨_, finish_ok failed u, rfl⟩
  | error c => exact ⟨_, finish_error failed c, rfl⟩

/-- A word with a row's OPC does not meet the row when a reserved field or a field that the row does not use is not 0 (R106). -/
theorem not_legal_iff {w : Word} {o : Opcode} (hopc : fieldOpc w = o.code) :
    ¬ o.Legal w ↔ fieldRsvd0 w ≠ 0 ∨ fieldRsvd1 w ≠ 0 ∨ (o.usesLen = false ∧ fieldLen w ≠ 0) ∨
      (o.usesCtx = false ∧ fieldCtx w ≠ 0) ∨ (o.usesDst = false ∧ fieldDst w ≠ 0) ∨
      (o.usesSrc1 = false ∧ fieldSrc1 w ≠ 0) ∨ (o.usesSrc2 = false ∧ fieldSrc2 w ≠ 0) := by
  simp only [Opcode.Legal, Opcode.UnusedZero, wordOperands, hopc, true_and, not_and_or, not_or, Bool.not_eq_true, ne_eq]

/-- A word whose OPC names a row that it does not meet raises ILLEGAL_CMD (R108). -/
theorem step_of_not_legal {s : State} {w : Word} {rest : List HostEvent} {o : Opcode} (hw : s.writesCmd w rest)
    (hopc : fieldOpc w = o.code) (h : ¬ o.Legal w) : step s = .next ((s.acceptCmd w rest).raise .illegalCmd) := by
  obtain ⟨e, he⟩ := decode_of_not_legal (w := w) fun o' h' => h (Opcode.code_injective (hopc.symm.trans h'.1) ▸ h')
  exact step_of_decode_error hw he

/-- ERR after the write of a word of one row: 1 when the word does not meet the row, else the code of the command's body. -/
theorem step_err_of_opc {s : State} {w : Word} {rest : List HostEvent} {o : Opcode} {illegal : Prop} [Decidable illegal]
    {failed : State} {body : Except ErrCode State} (hw : s.writesCmd w rest) (hopc : fieldOpc w = o.code)
    (hillegal : ¬ o.Legal w ↔ illegal) (hexec : exec (buildInstr o w) (s.acceptCmd w rest) = finish failed body) :
    ∃ t, step s = .next t ∧ t.err = if illegal then 1 else bodyCode body := by
  by_cases hi : illegal
  · rw [if_pos hi]
    exact ⟨_, step_of_not_legal hw hopc (hillegal.2 hi), rfl⟩
  · have hlegal : o.Legal w := not_not.1 fun h => hi (hillegal.1 h)
    rw [if_neg hi, step_of_decode_ok hw (decode_of_legal hlegal), hexec]
    exact finish_err failed body

/-! ### The errors of CMPGTE and CSEL -/

theorem not_legal_cmpgte_iff {w : Word} (hopc : fieldOpc w = Opcode.cmpgte.code) :
    ¬ Opcode.cmpgte.Legal w ↔ fieldRsvd0 w ≠ 0 ∨ fieldRsvd1 w ≠ 0 ∨ fieldCtx w ≠ 0 ∨ fieldDst w ≠ 0 := by
  simp [not_legal_iff hopc, Opcode.usesLen, Opcode.usesCtx, Opcode.usesDst, Opcode.usesSrc1, Opcode.usesSrc2]

theorem not_legal_csel_iff {w : Word} (hopc : fieldOpc w = Opcode.csel.code) :
    ¬ Opcode.csel.Legal w ↔ fieldRsvd0 w ≠ 0 ∨ fieldRsvd1 w ≠ 0 ∨ fieldCtx w ≠ 0 := by
  simp [not_legal_iff hopc, Opcode.usesLen, Opcode.usesCtx, Opcode.usesDst, Opcode.usesSrc1, Opcode.usesSrc2]

theorem bodyCode_cmpgteBody (len src1 src2 : Nat) (s : State) :
    bodyCode (cmpgteBody len src1 src2 s) =
      if len < 1 ∨ 12 < len then 3
      else if 4096 < src1 + 8 * len ∨ 4096 < src2 + 8 * len then 4
      else 0 := by
  simp only [cmpgteBody, bodyCode_checkLimbCount, bodyCode_checkRange, bodyCode_ok, ErrCode.code, ite_or]

theorem bodyCode_cselBody (len dst src1 src2 : Nat) (s : State) :
    bodyCode (cselBody len dst src1 src2 s) =
      if len < 1 ∨ 12 < len then 3
      else if 4096 < src1 + 8 * len ∨ 4096 < src2 + 8 * len ∨ 4096 < dst + 8 * len then 4
      else 0 := by
  simp only [cselBody, bodyCode_checkLimbCount, bodyCode_checkRange, bodyCode_ok, ErrCode.code, ite_or]

/-! ### The obligations -/

/-- Settles O37: each unit by its one equation in words, in which the carry or borrow is 0 or 1. -/
theorem wordAdderAndSubtractorAreExact : Obligations.WordAdderAndSubtractorAreExact := by
  intro x y c
  have hadd := adc_toNat x y c
  have hsum := (adc x y c).2.isLt
  have hsub := sbb_toNat x y c
  have hdiff := (sbb x y c).2.isLt
  refine ⟨by omega, by omega, ?_⟩
  cases hbor : (sbb x y c).1 with
  | false =>
    rw [hbor, Bool.toNat_false] at hsub
    have hge : ¬ (x.toNat : Int) - y.toNat - c.toNat < 0 := by omega
    simp only [hge, Bool.false_eq_true, if_false, true_and]
    omega
  | true =>
    rw [hbor, Bool.toNat_true] at hsub
    have hlt : (x.toNat : Int) - y.toNat - c.toNat < 0 := by omega
    simp only [hlt, if_true, true_and]
    omega

/-- Settles O38: lo + 2^64·hi is t + a·b + c, and lo and hi are words. -/
theorem macLosesNoBit : Obligations.MacLosesNoBit := by
  intro t a b c
  have hhi := (mac t a b c).1.isLt
  have hlo := (mac t a b c).2.isLt
  rw [← mac_toNat]
  omega

/-- Settles O39: the carry chain from carry 0, the borrow chain from borrow 0, and the comparison from the top. -/
theorem limbUnitsComputeIntegers : Obligations.LimbUnitsComputeIntegers := by
  intro a b h
  have hadd : valOf (addL a b).2 + 2 ^ (64 * a.length) * (addL a b).1.toNat = valOf a + valOf b + 0 := addChain_valOf h false
  have hsub : valOf (subL a b).2 + valOf b + 0 = valOf a + 2 ^ (64 * a.length) * (subL a b).1.toNat := subChain_valOf h false
  obtain ⟨hborrow, -⟩ := subL_valOf h
  refine ⟨⟨by linarith, addChain_length h false⟩, ⟨?_, ?_, subChain_length h false⟩, ?_⟩
  · zify at hsub
    linarith
  · rw [hborrow, decide_eq_true_iff]
  · rw [gteL_eq h, decide_eq_true_iff]

/-- Settles O7: the checks hold, and the comparison of the limbs is that of the buffers' values. -/
theorem cmpgteComparesIntegers : Obligations.CmpgteComparesIntegers := fun _ _ _ _ => exec_cmpgte_ok

/-- Settles O25: a word that does not meet its row is no command, and each body's code is that of its first check to fail. -/
theorem compareAndSelectErrorsInOrder : Obligations.CompareAndSelectErrorsInOrder := by
  intro s w rest hw n
  refine ⟨fun hopc => ?_, fun hopc => ?_⟩
  · rw [← bodyCode_cmpgteBody _ _ _ (s.acceptCmd w rest)]
    exact step_err_of_opc (o := .cmpgte) hw hopc (not_legal_cmpgte_iff hopc) rfl
  · rw [← bodyCode_cselBody _ _ _ _ (s.acceptCmd w rest)]
    exact step_err_of_opc (o := .csel) hw hopc (not_legal_csel_iff hopc) rfl

end Sys2Proof.Machine

/-! PROOFS for 41_modular_addsub.md. ADDMOD and SUBMOD on values (R181, R191, R200), and the errors of the commands that
check their operands against N (R183, R193, R233). -/

namespace Sys2Proof.Machine

/-! ### The cores compute modulo N (R181, R191) -/

/-- `AddL` carries exactly when a + b does not fit, and gives a + b then with 2^(64·L) taken off (R143). -/
theorem addL_valOf {a b : Limbs} (h : a.length = b.length) :
    (addL a b).1 = decide (2 ^ (64 * a.length) ≤ valOf a + valOf b) ∧
      (valOf (addL a b).2 + if 2 ^ (64 * a.length) ≤ valOf a + valOf b then 2 ^ (64 * a.length) else 0) =
        valOf a + valOf b := by
  have hlen : (addL a b).2.length = a.length := addChain_length h false
  have hs := valOf_lt (addL a b).2
  have hadd : valOf (addL a b).2 + 2 ^ (64 * a.length) * (addL a b).1.toNat = valOf a + valOf b := addChain_valOf h false
  rw [hlen] at hs
  cases hcarry : (addL a b).1 with
  | false =>
    rw [hcarry, Bool.toNat_false] at hadd
    have hfits : ¬ 2 ^ (64 * a.length) ≤ valOf a + valOf b := by omega
    simp only [hfits, decide_false, if_false, true_and]
    omega
  | true =>
    rw [hcarry, Bool.toNat_true] at hadd
    have hover : 2 ^ (64 * a.length) ≤ valOf a + valOf b := by omega
    simp only [hover, decide_true, if_true, true_and]
    omega

section
variable {x y n : Limbs}

/-- ADDMOD's core takes N off x + y exactly when that sum is not below N. -/
theorem addModCore_valOf (hx : x.length = n.length) (hy : y.length = n.length) (hxn : valOf x < valOf n)
    (hyn : valOf y < valOf n) : valOf (addModCore x y n) = (valOf x + valOf y) % valOf n := by
  have hxy : x.length = y.length := hx.trans hy.symm
  have hslen : (addL x y).2.length = n.length := (addChain_length hxy false).trans hx
  have hN := valOf_lt n
  obtain ⟨hcarry, hsum⟩ := addL_valOf hxy
  obtain ⟨hborrow, hdiff⟩ := subL_valOf hslen
  rw [hx] at hcarry hsum
  rw [hslen] at hdiff
  have hsel : ((addL x y).1 || !(subL (addL x y).2 n).1) = decide (valOf n ≤ valOf x + valOf y) := by
    rw [hcarry, hborrow, ← decide_not, ← Bool.decide_or]
    split at hsum <;> exact decide_eq_decide.2 (by omega)
  rw [addModCore, hsel, sel]
  by_cases hge : valOf n ≤ valOf x + valOf y
  · rw [if_pos (decide_eq_true hge), Nat.mod_eq_sub_mod hge, Nat.mod_eq_of_lt (by omega)]
    split at hsum <;> split at hdiff <;> omega
  · rw [if_neg (by simpa using hge), Nat.mod_eq_of_lt (by omega)]
    rw [if_neg (by omega)] at hsum
    exact hsum

/-- SUBMOD's core adds N to x − y exactly when that difference is negative; the carry it drops is the borrow. -/
theorem subModCore_valOf (hx : x.length = n.length) (hy : y.length = n.length) (hxn : valOf x < valOf n)
    (hyn : valOf y < valOf n) :
    valOf (subModCore x y n) = (((valOf x : Int) - (valOf y : Int)) % (valOf n : Int)).toNat := by
  have hxy : x.length = y.length := hx.trans hy.symm
  have hdlen : (subL x y).2.length = n.length := (subChain_length hxy false).trans hx
  obtain ⟨hborrow, hdiff⟩ := subL_valOf hxy
  rw [hx] at hdiff
  rw [subModCore, hborrow, ← decide_not, sel]
  by_cases hlt : valOf x < valOf y
  · obtain ⟨-, hwrap⟩ := addL_valOf hdlen
    have hmod : ((valOf x : Int) - valOf y) % valOf n = valOf x - valOf y + valOf n := by
      rw [← Int.add_emod_right, Int.emod_eq_of_lt (by omega) (by omega)]
    rw [if_pos hlt] at hdiff
    rw [hdlen, if_pos (by omega)] at hwrap
    rw [if_neg (by simpa using hlt), hmod]
    omega
  · rw [if_neg hlt] at hdiff
    rw [if_pos (by simpa using hlt), Int.emod_eq_of_lt (by omega) (by omega)]
    omega

end

/-! ### ADDMOD and SUBMOD in a state that meets the invariant (R200) -/

section
variable {s : State} {len : Nat} {k : Slot} {dst src1 src2 : Nat}

/-- An operand has as many limbs as N. -/
theorem State.Inv.loadOperand_length_eq (hs : s.Inv) (hk : s.contextReady k len) (src : Nat) :
    (s.loadOperand src len).length = ((s.slot k).modLimbs len).length := by
  rw [State.loadOperand_length, Context.modLimbs_length (hk.2 ▸ (hs.sound_of_contextReady hk).lenLe)]

theorem State.valOf_modLimbs (hk : s.contextReady k len) : valOf ((s.slot k).modLimbs len) = s.modulus k := by
  rw [hk.2]
  rfl

/-- A command of the shared body whose `core` gives a value that the operands determine stores that value. -/
theorem finish_binaryBody_ok {core : Limbs → Limbs → Limbs → Word → Except ErrCode Limbs} {z : Limbs} {v : Nat}
    (hs : s.Inv) (hk : s.contextReady k len) (h1 : src1 + 8 * len ≤ 4096) (h2 : src2 + 8 * len ≤ 4096)
    (hd : dst + 8 * len ≤ 4096) (hx : s.memRead src1 (8 * len) < s.modulus k)
    (hy : s.memRead src2 (8 * len) < s.modulus k)
    (hz : core (s.loadOperand src1 len) (s.loadOperand src2 len) ((s.slot k).modLimbs len) (s.slot k).modInv = .ok z)
    (hv : valOf z = v) :
    finish s (binaryBody core len k dst src1 src2 s) = .next { s.memWrite dst (8 * len) v with err := 0 } := by
  rw [binaryBody_eq_ok hs hk h1 h2 hd hx hy hz, ← hv]
  rfl

end

/-- Settles O9: the operands have the modulus's length, so each core's value is the sum or the difference modulo N. -/
theorem addmodAndSubmodComputeModN : Obligations.AddmodAndSubmodComputeModN := by
  intro s len k dst src1 src2 hs hk h1 h2 hd hx hy
  have hN := State.valOf_modLimbs hk
  have hlen := hs.loadOperand_length_eq hk
  have hbelow {src : Nat} (h : s.memRead src (8 * len) < s.modulus k) :
      valOf (s.loadOperand src len) < valOf ((s.slot k).modLimbs len) := by
    rwa [State.valOf_loadOperand, hN]
  have hadd := addModCore_valOf (hlen src1) (hlen src2) (hbelow hx) (hbelow hy)
  have hsub := subModCore_valOf (hlen src1) (hlen src2) (hbelow hx) (hbelow hy)
  rw [State.valOf_loadOperand, State.valOf_loadOperand, hN] at hadd hsub
  have hpos : (0 : Int) < s.modulus k := by omega
  refine ⟨finish_binaryBody_ok hs hk h1 h2 hd hx hy rfl hadd, finish_binaryBody_ok hs hk h1 h2 hd hx hy rfl hsub,
    Nat.mod_lt _ (by omega), ?_⟩
  have hlow := Int.emod_nonneg ((s.memRead src1 (8 * len) : Int) - s.memRead src2 (8 * len)) hpos.ne'
  have hhigh := Int.emod_lt_of_pos ((s.memRead src1 (8 * len) : Int) - s.memRead src2 (8 * len)) hpos
  omega

/-! ### The errors of ADDMOD, SUBMOD and MULMONT in their order (R183, R193, R233) -/

theorem bodyCode_checkCtx (s : State) (k : Slot) (len : Nat) (r : Except ErrCode State) :
    bodyCode (checkCtx s k len r) =
      if (s.slot k).valid = false then 2 else if len ≠ (s.slot k).len.toNat then 3 else bodyCode r := by
  rw [checkCtx, bodyCode_require, bodyCode_require, ← ite_not]
  refine ite_congr (by simp) (fun _ => rfl) fun _ => ?_
  rw [← ite_not]
  exact if_congr (by simp) rfl rfl

theorem bodyCode_checkBelow {x y n : Limbs} (hx : x.length = n.length) (hy : y.length = n.length)
    (r : Except ErrCode State) :
    bodyCode (checkBelow x y n r) = if valOf n ≤ valOf x ∨ valOf n ≤ valOf y then 6 else bodyCode r := by
  rw [checkBelow, bodyCode_require, gteL_eq hx, gteL_eq hy, ← ite_not]
  exact if_congr (by simp [or_iff_not_imp_left]) rfl rfl

/-- The code of the first check to fail in the body that the three commands share, 0 when none does (R183, R193, R233). -/
def binaryCode (s : State) (len : Nat) (k : Slot) (dst src1 src2 : Nat) : BitVec 4 :=
  if (s.slot k).valid = false then 2
  else if len ≠ (s.slot k).len.toNat then 3
  else if 4096 < src1 + 8 * len ∨ 4096 < src2 + 8 * len ∨ 4096 < dst + 8 * len then 4
  else if s.modulus k ≤ s.memRead src1 (8 * len) ∨ s.modulus k ≤ s.memRead src2 (8 * len) then 6
  else 0

/-- Taking the event of a CMD write changes no slot and no byte. -/
theorem binaryCode_acceptCmd (s : State) (w : Word) (rest : List HostEvent) (len : Nat) (k : Slot) (dst src1 src2 : Nat) :
    binaryCode (s.acceptCmd w rest) len k dst src1 src2 = binaryCode s len k dst src1 src2 := by
  have hread (off : Nat) : (s.acceptCmd w rest).memRead off (8 * len) = s.memRead off (8 * len) :=
    State.memRead_congr fun _ _ _ => rfl
  rw [binaryCode, hread, hread]
  rfl

/-- `core` has an answer for operands of this context that are below N. -/
def CoreAnswers (core : Limbs → Limbs → Limbs → Word → Except ErrCode Limbs) (s : State) (k : Slot) (len : Nat) : Prop :=
  s.contextReady k len → ∀ x y : Limbs, x.length = len → y.length = len → valOf x < s.modulus k → valOf y < s.modulus k →
    ∃ z, core x y ((s.slot k).modLimbs len) (s.slot k).modInv = .ok z

/-- The cores of ADDMOD and SUBMOD answer always. -/
theorem coreAnswers_of_total (core : Limbs → Limbs → Limbs → Limbs) (s : State) (k : Slot) (len : Nat) :
    CoreAnswers (fun x y n _ => .ok (core x y n)) s k len :=
  fun _ _ _ _ _ _ _ => ⟨_, rfl⟩

/-- MULMONT's core is the CIOS unit, which takes no INTERNAL_INVARIANT on the context of a slot (R221, R309). -/
theorem State.Inv.cios_answers {s : State} (hs : s.Inv) (k : Slot) (len : Nat) : CoreAnswers cios s k len := by
  intro hk x y hx hy hxN hyN
  have hy' : valOf y < 2 ^ (64 * len) := hy ▸ valOf_lt y
  obtain ⟨z, hz, -⟩ := hs.cios_slot hk hx hy (Nat.mul_lt_mul_of_lt_of_le hxN hy'.le (by positivity))
  exact ⟨z, hz⟩

theorem bodyCode_binaryBody {core : Limbs → Limbs → Limbs → Word → Except ErrCode Limbs} {s : State} {len : Nat}
    {k : Slot} {dst src1 src2 : Nat} (hs : s.Inv) (hcore : CoreAnswers core s k len) :
    bodyCode (binaryBody core len k dst src1 src2 s) = binaryCode s len k dst src1 src2 := by
  rw [binaryBody, bodyCode_checkCtx]
  refine ite_congr rfl (fun _ => rfl) fun hvalid => ite_congr rfl (fun _ => rfl) fun hlen => ?_
  have hk : s.contextReady k len := ⟨by simpa using hvalid, not_not.1 hlen⟩
  rw [bodyCode_checkRange, bodyCode_checkRange, bodyCode_checkRange, ← ite_or, ← ite_or]
  refine ite_congr (propext or_assoc) (fun _ => rfl) fun _ => ?_
  rw [bodyCode_checkBelow (hs.loadOperand_length_eq hk src1) (hs.loadOperand_length_eq hk src2), State.valOf_modLimbs hk,
    State.valOf_loadOperand, State.valOf_loadOperand]
  refine ite_congr rfl (fun _ => rfl) fun hbelow => ?_
  rw [not_or, Nat.not_le, Nat.not_le, ← State.valOf_loadOperand, ← State.valOf_loadOperand] at hbelow
  obtain ⟨hx, hy⟩ := hbelow
  obtain ⟨z, hz⟩ := hcore hk _ _ (s.loadOperand_length src1 len) (s.loadOperand_length src2 len) hx hy
  rw [hz, bodyCode_ok]

/-- A row that uses every field is missed by a reserved bit alone (R105, R106). -/
theorem not_legal_iff_of_all_used {w : Word} {o : Opcode} (hopc : fieldOpc w = o.code)
    (hused : (o.usesLen && o.usesCtx && o.usesDst && o.usesSrc1 && o.usesSrc2) = true) :
    ¬ o.Legal w ↔ fieldRsvd0 w ≠ 0 ∨ fieldRsvd1 w ≠ 0 := by
  simp only [Bool.and_eq_true] at hused
  obtain ⟨⟨⟨⟨hlen, hctx⟩, hdst⟩, hsrc1⟩, hsrc2⟩ := hused
  simp [not_legal_iff hopc, hlen, hctx, hdst, hsrc1, hsrc2]

/-- ERR after the write of a word of a command that the shared body runs. -/
theorem step_err_of_binary {core : Limbs → Limbs → Limbs → Word → Except ErrCode Limbs} {s : State} {w : Word}
    {rest : List HostEvent} {o : Opcode} (hs : s.Inv) (hw : s.writesCmd w rest) (hopc : fieldOpc w = o.code)
    (hused : (o.usesLen && o.usesCtx && o.usesDst && o.usesSrc1 && o.usesSrc2) = true)
    (hexec : ∀ t, exec (buildInstr o w) t =
      finish t (binaryBody core (fieldLen w) (fieldCtx w) (fieldDst w) (fieldSrc1 w) (fieldSrc2 w) t))
    (hcore : ∀ t : State, t.Inv → CoreAnswers core t (fieldCtx w) (fieldLen w)) :
    ∃ t, step s = .next t ∧ t.err =
      if fieldRsvd0 w ≠ 0 ∨ fieldRsvd1 w ≠ 0 then 1
      else binaryCode s (fieldLen w) (fieldCtx w) (fieldDst w) (fieldSrc1 w) (fieldSrc2 w) := by
  have haccept := hs.acceptCmd w rest
  rw [← binaryCode_acceptCmd s w rest, ← bodyCode_binaryBody haccept (hcore _ haccept)]
  exact step_err_of_opc hw hopc (not_legal_iff_of_all_used hopc hused) (hexec _)

/-- Settles O21: the three commands run one body, whose code is that of its first check to fail; past the checks ADDMOD and
SUBMOD always answer, and MULMONT does by the law of the CIOS unit. -/
theorem modularOperatorErrorsInOrder : Obligations.ModularOperatorErrorsInOrder := by
  intro s w rest hs hw hopc
  rcases hopc with hadd | hsub | hmul
  · exact step_err_of_binary (o := .addmod) hs hw hadd rfl (fun _ => rfl) fun _ _ => coreAnswers_of_total _ _ _ _
  · exact step_err_of_binary (o := .submod) hs hw hsub rfl (fun _ => rfl) fun _ _ => coreAnswers_of_total _ _ _ _
  · exact step_err_of_binary (o := .mulmont) hs hw hmul rfl (fun _ => rfl) fun _ ht => ht.cios_answers _ _

end Sys2Proof.Machine

/-! PROOFS for 42_cios_multiplier.md. The laws of one iteration and of the whole CIOS unit (R210 to R221), MULMONT (R231), and
the completion code that no command produces (R309). -/

namespace Sys2Proof.Machine

/-! ### One iteration (R213 to R217) -/

/-- A reduced accumulator is below N + X, so below 2·R: T[L] is 0 or 1. -/
theorem Acc.Reduced.tL_le_one {t : Acc} {x n : Limbs} (ht : t.Reduced x n) (hx : x.length = n.length) :
    t.tL.toNat ≤ 1 := by
  obtain ⟨hlen, htop, hbelow⟩ := ht
  have hX := valOf_lt x
  have hN := valOf_lt n
  have hval : t.val = valOf t.lo + 2 ^ (64 * n.length) * t.tL.toNat := by simp [Acc.val, htop, hlen]
  rw [hx] at hX
  refine Nat.le_of_lt_succ (Nat.lt_of_mul_lt_mul_left (a := 2 ^ (64 * n.length)) ?_)
  omega

/-- Settles O41: each step by its own law. The round keeps the accumulator reduced, and its T[L] is what step 3 left in
T[L+1]. -/
theorem ciosIterationIsExact : Obligations.CiosIterationIsExact := by
  intro t x n ninv yi hx hlen hpos hninv htop hbelow t1 m t3 t4
  have hlenx : t.lo.length = x.length := hlen.trans hx.symm
  have hlen1 : t1.lo.length = n.length := (ciosStep1_length hlenx).trans hlen
  have hle1 : t1.tL1.toNat ≤ 1 := ciosStep1_tL1_le
  have hlow : t3.lo.headD 0 = 0 := ciosStep3_low hlen1 hpos hle1 hninv
  have hlen3 : 1 ≤ t3.lo.length := by rwa [ciosStep3_length hlen1, hlen1]
  obtain ⟨hred, -⟩ := ciosRound_spec hx hpos hninv ⟨hlen, htop, hbelow⟩ yi
  exact ⟨ciosStep1_val hlenx htop, BitVec.toNat_mul _ _, ciosStep3_val hlen1 hle1, hlow, hred.tL_le_one hx,
    ciosStep4_val hlen3 hlow, hred.top, hred.below, rfl⟩

/-! ### The whole unit (R210 to R221) -/

/-- An N with N·v ≡ −1 (mod 2^64) is odd, so it has an inverse modulo every power of 2. -/
theorem coprime_two_pow_of_mul_add_one {N v : Nat} (h : (N * v + 1) % 2 ^ 64 = 0) (e : Nat) : N.Coprime (2 ^ e) := by
  refine Nat.Coprime.pow_right e (Nat.coprime_two_right.2 (Nat.not_even_iff_odd.1 ?_))
  rintro ⟨m, rfl⟩
  rw [← Nat.two_mul, Nat.mul_assoc] at h
  omega

/-- One M below R makes a + M·N a multiple of R when N has an inverse modulo R. -/
theorem reductionFactor_unique {a N R M M' : Nat} (hN : N.Coprime R) (hM : M < R) (hM' : M' < R)
    (h : a + M * N ≡ 0 [MOD R]) (h' : a + M' * N ≡ 0 [MOD R]) : M' = M := by
  have hmul : M' * N ≡ M * N [MOD R] := Nat.ModEq.add_left_cancel' a (h'.trans h.symm)
  exact (Nat.ModEq.cancel_right_of_coprime hN.symm hmul).eq_of_lt_of_lt hM' hM

/-- The final correction keeps the number of limbs. -/
theorem finalCorrection_length {t : Acc} {n z : Limbs} (hlen : t.lo.length = n.length) (h : finalCorrection t n = .ok z) :
    z.length = n.length := by
  have hsub : (subL t.lo n).2.length = n.length := (subChain_length hlen false).trans hlen
  simp only [finalCorrection] at h
  split_ifs at h
  · exact Except.ok.inj h ▸ hsub
  · exact Except.ok.inj h ▸ hsub
  · exact Except.ok.inj h ▸ hlen

section
variable {x y n : Limbs} {ninv : Word}

/-- Before the correction the accumulator is below 2·N when X·Y < N·R (R221). -/
theorem ciosLoop_val_lt (hx : x.length = n.length) (hy : y.length = n.length) (hpos : 1 ≤ n.length)
    (hninv : (valOf n * ninv.toNat + 1) % 2 ^ 64 = 0) (hxy : valOf x * valOf y < valOf n * 2 ^ (64 * n.length)) :
    (ciosLoop x y n ninv).val < 2 * valOf n := by
  obtain ⟨-, M, hM, hval⟩ := ciosLoop_spec hx hy hpos hninv
  have hMN : M * valOf n ≤ 2 ^ (64 * n.length) * valOf n := Nat.mul_le_mul_right _ hM.le
  refine Nat.lt_of_mul_lt_mul_right (a := 2 ^ (64 * n.length)) ?_
  rw [hval]
  linarith

theorem cios_length (hx : x.length = n.length) (hy : y.length = n.length) (hpos : 1 ≤ n.length)
    (hninv : (valOf n * ninv.toNat + 1) % 2 ^ 64 = 0) {z : Limbs} (hz : cios x y n ninv = .ok z) : z.length = n.length :=
  let ⟨hred, _⟩ := ciosLoop_spec hx hy hpos hninv
  finalCorrection_length hred.length hz

end

/-- Settles O40: the loop gives T·R = X·Y + M·N, no other M does since N is odd, and one correction brings T below N. -/
theorem ciosUnitComputesTheMontgomeryProduct : Obligations.CiosUnitComputesTheMontgomeryProduct := by
  intro x y n ninv hx hy hpos hninv hxy R T
  obtain ⟨-, M, hM, hval⟩ := ciosLoop_spec hx hy hpos hninv
  obtain ⟨z, hz, hlt, hmod⟩ := cios_spec hx hy hpos hninv hxy
  have hwhole : valOf x * valOf y + M * valOf n ≡ 0 [MOD R] := by
    rw [← hval]
    exact Nat.modEq_zero_iff_dvd.2 (Nat.dvd_mul_left R T)
  exact ⟨⟨M, hM, hval, fun M' hM' hzero =>
      reductionFactor_unique (coprime_two_pow_of_mul_add_one hninv _) hM hM' hwhole hzero⟩,
    ciosLoop_val_lt hx hy hpos hninv hxy, z, hz, cios_length hx hy hpos hninv hz, hlt, hmod⟩

/-! ### MULMONT (R231) -/

/-- Settles O10: MULMONT stores what the CIOS unit gives on the context of its slot. -/
theorem mulmontComputesTheMontgomeryProduct : Obligations.MulmontComputesTheMontgomeryProduct :=
  fun _ _ _ _ _ _ hs hk h1 h2 hd hx hy => exec_mulmont hs hk h1 h2 hd hx hy

/-! ### INTERNAL_INVARIANT (R219, R309) -/

theorem valOf_oneLimbs {len : Nat} (h : 1 ≤ len) : valOf (oneLimbs len) = 1 :=
  valOf_limbsOf_of_lt (Nat.one_lt_two_pow (by omega))

section
variable {s : State} {len : Nat} {k : Slot} {dst src1 : Nat}

/-- The CIOS unit answers for an x below R and a y that is not above N (R221). -/
theorem State.Inv.cios_slot_of_le (hs : s.Inv) (hk : s.contextReady k len) {x y : Limbs} (hx : x.length = len)
    (hy : y.length = len) (hyN : valOf y ≤ s.modulus k) :
    ∃ z, cios x y ((s.slot k).modLimbs len) (s.slot k).modInv = .ok z := by
  have hX : valOf x < 2 ^ (64 * len) := hx ▸ valOf_lt x
  have hxy : valOf x * valOf y < s.modulus k * 2 ^ (64 * len) := by
    rw [Nat.mul_comm]
    exact Nat.mul_lt_mul_of_le_of_lt hyN hX (hs.sound_of_contextReady hk).modulus_pos
  obtain ⟨z, hz, -⟩ := hs.cios_slot hk hx hy hxy
  exact ⟨z, hz⟩

/-- TOMONT's second operand is R² mod N. -/
theorem State.Inv.tomont_answers (hs : s.Inv) (hk : s.contextReady k len) :
    ∃ z, cios (s.loadOperand src1 len) ((s.slot k).r2Limbs len) ((s.slot k).modLimbs len) (s.slot k).modInv = .ok z := by
  have hsound := hs.sound_of_contextReady hk
  have hlen := hk.2
  have hr2 : valOf ((s.slot k).r2Limbs len) = 2 ^ (128 * len) % s.modulus k := hlen ▸ hsound.r2Right
  refine hs.cios_slot_of_le hk (s.loadOperand_length src1 len) (Context.r2Limbs_length (hlen ▸ hsound.lenLe)) ?_
  rw [hr2]
  exact (Nat.mod_lt _ hsound.modulus_pos).le

/-- TONORM's second operand is 1. -/
theorem State.Inv.tonorm_answers (hs : s.Inv) (hk : s.contextReady k len) :
    ∃ z, cios (s.loadOperand src1 len) (oneLimbs len) ((s.slot k).modLimbs len) (s.slot k).modInv = .ok z := by
  have hsound := hs.sound_of_contextReady hk
  refine hs.cios_slot_of_le hk (s.loadOperand_length src1 len) (oneLimbs_length len) ?_
  rw [valOf_oneLimbs (hk.2 ▸ hsound.lenPos)]
  exact hsound.modulus_pos

/-- The code of the first check to fail in the body of TOMONT and TONORM, 0 when none does and `core` answers (R278, R285). -/
theorem bodyCode_unaryBody {core : Limbs → Context → Except ErrCode Limbs}
    (hcore : s.contextReady k len → ∃ z, core (s.loadOperand src1 len) (s.slot k) = .ok z) :
    bodyCode (unaryBody core len k dst src1 s) =
      if (s.slot k).valid = false then 2
      else if len ≠ (s.slot k).len.toNat then 3
      else if 4096 < src1 + 8 * len ∨ 4096 < dst + 8 * len then 4
      else 0 := by
  rw [unaryBody, bodyCode_checkCtx]
  refine ite_congr rfl (fun _ => rfl) fun hvalid => ite_congr rfl (fun _ => rfl) fun hlen => ?_
  obtain ⟨z, hz⟩ := hcore ⟨by simpa using hvalid, not_not.1 hlen⟩
  rw [bodyCode_checkRange, bodyCode_checkRange, ← ite_or, hz, bodyCode_ok]

theorem bodyCode_unaryBody_ne_seven {core : Limbs → Context → Except ErrCode Limbs}
    (hcore : s.contextReady k len → ∃ z, core (s.loadOperand src1 len) (s.slot k) = .ok z) :
    bodyCode (unaryBody core len k dst src1 s) ≠ 7 := by
  rw [bodyCode_unaryBody hcore]
  split_ifs <;> decide

theorem bodyCode_binaryBody_ne_seven {core : Limbs → Limbs → Limbs → Word → Except ErrCode Limbs} {src2 : Nat}
    (hs : s.Inv) (hcore : CoreAnswers core s k len) : bodyCode (binaryBody core len k dst src1 src2 s) ≠ 7 := by
  rw [bodyCode_binaryBody hs hcore, binaryCode]
  split_ifs <;> decide

end

theorem bodyCode_setmodBody (len : Nat) (k : Slot) (src1 : Nat) (s : State) :
    bodyCode (setmodBody len k src1 s) =
      if len < 1 ∨ 12 < len then 5
      else if 4096 < src1 + 8 * len then 4
      else if modulusOk (s.loadOperand src1 len) then 0
      else 5 := by
  simp only [setmodBody, bodyCode_checkLimbCount, bodyCode_checkRange, bodyCode_require, bodyCode_ok, ErrCode.code]

theorem bodyCode_setmodiBody (len : Nat) (k : Slot) (src1 : Nat) (s : State) :
    bodyCode (setmodiBody len k src1 s) =
      if len < 1 ∨ 12 < len then 5
      else if 4096 < src1 + (8 * len + 8) then 4
      else if modulusOk (s.loadOperand src1 len) then
        if BitVec.ofNat 64 (s.memRead (src1 + 8 * len) 8) = modInv ((s.loadOperand src1 len).headD 0) then 0 else 5
      else 5 := by
  simp only [setmodiBody, bodyCode_checkLimbCount, bodyCode_checkRange, bodyCode_require, bodyCode_ok, ErrCode.code,
    decide_eq_true_eq]

/-- No command's body gives INTERNAL_INVARIANT: its checks have other codes, and the three users of the CIOS unit get an
answer from it. -/
theorem State.Inv.exec_eq_finish {s : State} (hs : s.Inv) (i : Instr) :
    ∃ failed body, exec i s = finish failed body ∧ bodyCode body ≠ 7 := by
  cases i with
  | setmod => exact ⟨_, _, rfl, by rw [bodyCode_setmodBody]; split_ifs <;> decide⟩
  | setmodi => exact ⟨_, _, rfl, by rw [bodyCode_setmodiBody]; split_ifs <;> decide⟩
  | clrctx k => exact ⟨s, .ok (s.clearSlot k), rfl, by rw [bodyCode_ok]; decide⟩
  | addmod | submod => exact ⟨_, _, rfl, bodyCode_binaryBody_ne_seven hs (coreAnswers_of_total _ _ _ _)⟩
  | mulmont => exact ⟨_, _, rfl, bodyCode_binaryBody_ne_seven hs (hs.cios_answers _ _)⟩
  | tomont => exact ⟨_, _, rfl, bodyCode_unaryBody_ne_seven hs.tomont_answers⟩
  | tonorm => exact ⟨_, _, rfl, bodyCode_unaryBody_ne_seven hs.tonorm_answers⟩
  | cmpgte => exact ⟨_, _, rfl, by rw [bodyCode_cmpgteBody]; split_ifs <;> decide⟩
  | csel => exact ⟨_, _, rfl, by rw [bodyCode_cselBody]; split_ifs <;> decide⟩

/-- Settles O28: a command leaves the code of its body in ERR. -/
theorem internalInvariantIsNeverReported : Obligations.InternalInvariantIsNeverReported := by
  intro i s t hs h
  obtain ⟨failed, body, hexec, hcode⟩ := hs.exec_eq_finish i
  obtain ⟨u, hu, herr⟩ := finish_err failed body
  obtain rfl : u = t := Host.Outcome.next.inj (hu.symm.trans (hexec.symm.trans h))
  rwa [herr]

end Sys2Proof.Machine

/-! PROOFS for 43_montgomery_context.md. TOMONT and TONORM on values, alone and in a pipeline (R279, R286, R290 to R292), MODINV
and SETMODI (R252, R262), CLRCTX (R269, R270), and the errors of these commands and of SETMOD (R255, R264, R278, R285). -/

namespace Sys2Proof.Machine

/-! ### The state that a command which stores leaves -/

/-- The state after a command stored the value `v` of `len` limbs at `dst`: ERR is 0 and nothing else changed (R117). -/
def State.afterStore (s : State) (dst len v : Nat) : State := { s.memWrite dst (8 * len) v with err := 0 }

section
variable {s : State} {len : Nat} {k : Slot} {dst v : Nat}

@[simp] theorem State.slot_afterStore : (s.afterStore dst len v).slot k = s.slot k := s.slot_memWrite _ _ _ k

@[simp] theorem State.modulus_afterStore : (s.afterStore dst len v).modulus k = s.modulus k :=
  congrArg Context.modulus State.slot_afterStore

theorem State.contextReady.afterStore (hk : s.contextReady k len) : (s.afterStore dst len v).contextReady k len := by
  rwa [State.contextReady, State.slot_afterStore]

theorem State.Inv.afterStore (hs : s.Inv) (hd : dst + 8 * len ≤ 4096) : (s.afterStore dst len v).Inv :=
  hs.congr (State.memWrite_wf v hs.ramWf hd) (s.memWrite_ctx _ _ _) (Nat.zero_le _)

theorem State.memRead_afterStore_self (h : v < 2 ^ (64 * len)) : (s.afterStore dst len v).memRead dst (8 * len) = v :=
  s.memRead_stored dst h

/-- A buffer beside the one that was stored keeps its value. -/
theorem State.memRead_afterStore_outside {off : Nat} (h : off + 8 * len ≤ dst ∨ dst + 8 * len ≤ off) :
    (s.afterStore dst len v).memRead off (8 * len) = s.memRead off (8 * len) :=
  State.memRead_congr fun _ _ _ => s.byteAt_memWrite_outside v (by omega)

end

/-! ### The modulus and R (R11, R48) -/

section
variable {s : State} {len : Nat} {k : Slot} (hs : s.Inv) (hk : s.contextReady k len)
include hs hk

theorem State.Inv.modulus_pos : 0 < s.modulus k := (hs.sound_of_contextReady hk).modulus_pos

theorem State.Inv.modulus_lt : s.modulus k < 2 ^ (64 * len) := hk.2 ▸ (hs.sound_of_contextReady hk).modulus_lt

theorem State.Inv.coprime_R : (s.modulus k).Coprime (2 ^ (64 * len)) := (hs.sound_of_contextReady hk).coprime_two_pow _

end

/-- A value below N is determined by its product with R modulo N. -/
theorem eq_of_mul_modEq_mul {N R a b : Nat} (hN : N.Coprime R) (ha : a < N) (hb : b < N) (h : a * R ≡ b * R [MOD N]) :
    a = b :=
  (Nat.ModEq.cancel_right_of_coprime hN h).eq_of_lt_of_lt ha hb

/-- The factors R that TOMONT puts into x and y are those that MULMONT and TONORM take out. -/
theorem eq_mul_mod_of_montgomery {N R x y a b u t : Nat} (hN : N.Coprime R) (ht : t < N)
    (ha : a ≡ x * R [MOD N]) (hb : b ≡ y * R [MOD N]) (hu : u * R ≡ a * b [MOD N]) (htu : t * R ≡ u [MOD N]) :
    t = x * y % N := by
  have htwice : t * R * R ≡ x * y * R * R [MOD N] :=
    calc t * R * R ≡ u * R [MOD N] := htu.mul_right R
      _ ≡ a * b [MOD N] := hu
      _ ≡ x * R * (y * R) [MOD N] := ha.mul hb
      _ = x * y * R * R := by ring
  have honce := Nat.ModEq.cancel_right_of_coprime hN htwice
  have heq : t ≡ x * y [MOD N] := Nat.ModEq.cancel_right_of_coprime hN honce
  rw [← heq, Nat.mod_eq_of_lt ht]

/-! ### TOMONT and TONORM in a state that meets the invariant (R276, R279, R283, R286) -/

section
variable {s : State} {len : Nat} {k : Slot} {dst src1 : Nat}

/-- TOMONT writes the residue of x·R. -/
theorem exec_tomont_residue (hs : s.Inv) (hk : s.contextReady k len) (h1 : src1 + 8 * len ≤ 4096)
    (hd : dst + 8 * len ≤ 4096) :
    ∃ t, t < s.modulus k ∧ t ≡ s.memRead src1 (8 * len) * 2 ^ (64 * len) [MOD s.modulus k] ∧
      exec (.tomont len k dst src1) s = .next (s.afterStore dst len t) :=
  ⟨_, Nat.mod_lt _ (hs.modulus_pos hk), Nat.mod_modEq _ _, exec_tomont hs hk h1 hd⟩

/-- TONORM writes the t below N with t·R ≡ x (mod N): its second operand is 1. -/
theorem exec_tonorm (hs : s.Inv) (hk : s.contextReady k len) (h1 : src1 + 8 * len ≤ 4096) (hd : dst + 8 * len ≤ 4096) :
    ∃ t, t < s.modulus k ∧ t * 2 ^ (64 * len) ≡ s.memRead src1 (8 * len) [MOD s.modulus k] ∧
      exec (.tonorm len k dst src1) s = .next (s.afterStore dst len t) := by
  have hone : valOf (oneLimbs len) = 1 := valOf_oneLimbs (hk.2 ▸ (hs.sound_of_contextReady hk).lenPos)
  have hproduct : valOf (s.loadOperand src1 len) * valOf (oneLimbs len) = s.memRead src1 (8 * len) := by
    rw [hone, Nat.mul_one, State.valOf_loadOperand]
  have hxy : valOf (s.loadOperand src1 len) * valOf (oneLimbs len) < s.modulus k * 2 ^ (64 * len) := by
    rw [hproduct]
    exact (s.memRead_limbs_lt src1 len).trans_le (Nat.le_mul_of_pos_left _ (hs.modulus_pos hk))
  obtain ⟨z, hz, hlt, hmod⟩ := hs.cios_slot hk (s.loadOperand_length src1 len) (oneLimbs_length len) hxy
  rw [hproduct] at hmod
  refine ⟨valOf z, hlt, hmod, ?_⟩
  rw [exec, execTonorm, unaryBody_eq_ok hk h1 hd hz]
  rfl

/-- The accumulator of TONORM before the correction: T·R = x + M·N for some M below R. -/
theorem State.Inv.tonorm_loop (hs : s.Inv) (hk : s.contextReady k len) (src1 : Nat) :
    let T := ciosLoop (s.loadOperand src1 len) (oneLimbs len) ((s.slot k).modLimbs len) (s.slot k).modInv
    T.lo.length = len ∧ ∃ M < 2 ^ (64 * len), T.val * 2 ^ (64 * len) = s.memRead src1 (8 * len) + M * s.modulus k := by
  have hsound := hs.sound_of_contextReady hk
  have hN : ((s.slot k).modLimbs len).length = len := Context.modLimbs_length (hk.2 ▸ hsound.lenLe)
  have hpos : 1 ≤ len := hk.2 ▸ hsound.lenPos
  have hninv : (valOf ((s.slot k).modLimbs len) * (s.slot k).modInv.toNat + 1) % 2 ^ 64 = 0 := by
    rw [State.valOf_modLimbs hk]
    exact hsound.modInvRight
  obtain ⟨hred, M, hM, hval⟩ := ciosLoop_spec (x := s.loadOperand src1 len) (y := oneLimbs len)
    (hs.loadOperand_length_eq hk src1) ((oneLimbs_length len).trans hN.symm) (hN.symm ▸ hpos) hninv
  rw [hN] at hM hval
  rw [State.valOf_modLimbs hk, valOf_oneLimbs hpos, Nat.mul_one, State.valOf_loadOperand] at hval
  exact ⟨hred.length.trans hN, M, hM, hval⟩

/-- An accumulator of L limbs whose value fits them has no word above them. -/
theorem Acc.tL_eq_zero {t : Acc} (h : t.val < 2 ^ (64 * t.lo.length)) : t.tL = 0 := by
  by_contra hne
  have hpos : 1 ≤ t.tL.toNat := Nat.pos_of_ne_zero fun h0 => hne (BitVec.eq_of_toNat_eq h0)
  have htop : 2 ^ (64 * t.lo.length) * 1 ≤ 2 ^ (64 * t.lo.length) * (t.tL.toNat + 2 ^ 64 * t.tL1.toNat) :=
    Nat.mul_le_mul_left _ (by omega)
  rw [Acc.val] at h
  omega

end

/-! ### The obligations on values -/

/-- Settles O11: `exec_tomont`, and a residue is below N. -/
theorem tomontMultipliesByR : Obligations.TomontMultipliesByR :=
  fun _ _ _ _ _ hs hk h1 hd => ⟨exec_tomont hs hk h1 hd, Nat.mod_lt _ (hs.modulus_pos hk)⟩

/-- Settles O12: T·R = x + M·N with M and x below R, so T is at most N, which the L low words hold. -/
theorem tonormDividesByR : Obligations.TonormDividesByR := by
  intro s len k dst src1 hs hk h1 hd loop
  obtain ⟨hlen, M, hM, hval⟩ := hs.tonorm_loop hk src1
  have hMN : M * s.modulus k < 2 ^ (64 * len) * s.modulus k := Nat.mul_lt_mul_of_pos_right hM (hs.modulus_pos hk)
  have hbound : loop.val * 2 ^ (64 * len) < s.memRead src1 (8 * len) + s.modulus k * 2 ^ (64 * len) := by
    rw [hval, Nat.mul_comm (s.modulus k)]
    exact Nat.add_lt_add_left hMN _
  have hle : loop.val < s.modulus k + 1 := by
    refine Nat.lt_of_mul_lt_mul_right (a := 2 ^ (64 * len)) ?_
    calc loop.val * 2 ^ (64 * len) < s.memRead src1 (8 * len) + s.modulus k * 2 ^ (64 * len) := hbound
      _ < 2 ^ (64 * len) + s.modulus k * 2 ^ (64 * len) := Nat.add_lt_add_right (s.memRead_limbs_lt src1 len) _
      _ = (s.modulus k + 1) * 2 ^ (64 * len) := by ring
  have hN := hs.modulus_lt hk
  exact ⟨exec_tonorm hs hk h1 hd, hbound, hle, Acc.tL_eq_zero (hlen.symm ▸ by omega)⟩

/-- Settles O16: TONORM gives a t below N with t·R ≡ v·R (mod N), which is v. -/
theorem tonormUndoesTomont : Obligations.TonormUndoesTomont := by
  intro s len k dst mid src1 hs hk h1 hm hd hv
  have hN := hs.modulus_lt hk
  obtain ⟨a, haN, hamod, hto⟩ := exec_tomont_residue hs hk h1 hm
  obtain ⟨t, htN, htmod, hnorm⟩ := exec_tonorm (hs.afterStore (v := a) hm) hk.afterStore hm hd
  rw [State.modulus_afterStore] at htN htmod
  rw [State.memRead_afterStore_self (haN.trans hN)] at htmod
  refine ⟨_, _, hto, hnorm, rfl, rfl, ?_⟩
  rw [State.memRead_afterStore_self (htN.trans hN)]
  exact eq_of_mul_modEq_mul (hs.coprime_R hk) htN hv (htmod.trans hamod)

/-- Settles O17: each command reads what the ones before it left, since p overlaps neither y nor q; the factors R cancel. -/
theorem montgomeryPipelineMultiplies : Obligations.MontgomeryPipelineMultiplies := by
  intro s len k dst p q m x y hs hk hx hy hp hq hm hd hpy hpq hxN hyN
  have hN := hs.modulus_lt hk
  obtain ⟨a, haN, hamod, hto1⟩ := exec_tomont_residue hs hk hx hp
  have hs1 := hs.afterStore (v := a) hp
  have hk1 := hk.afterStore (dst := p) (v := a)
  obtain ⟨b, hbN, hbmod, hto2⟩ := exec_tomont_residue hs1 hk1 hy hq
  rw [State.modulus_afterStore] at hbN hbmod
  rw [State.memRead_afterStore_outside hpy.symm] at hbmod
  have hs2 := hs1.afterStore (v := b) hq
  have hk2 := hk1.afterStore (dst := q) (v := b)
  have hreadp : ((s.afterStore p len a).afterStore q len b).memRead p (8 * len) = a := by
    rw [State.memRead_afterStore_outside hpq, State.memRead_afterStore_self (haN.trans hN)]
  have hreadq : ((s.afterStore p len a).afterStore q len b).memRead q (8 * len) = b :=
    State.memRead_afterStore_self (hbN.trans hN)
  obtain ⟨u, huN, humod, hmul⟩ := exec_mulmont hs2 hk2 hp hq hm (by simpa [hreadp]) (by simpa [hreadq])
  obtain ⟨t, htN, htmod, hnorm⟩ := exec_tonorm (hs2.afterStore (v := u) hm) hk2.afterStore hm hd
  simp only [State.modulus_afterStore] at huN humod htN htmod
  rw [hreadp, hreadq] at humod
  rw [State.memRead_afterStore_self (huN.trans hN)] at htmod
  refine ⟨_, _, _, _, hto1, hto2, hmul, hnorm, rfl, rfl, rfl, rfl, ?_⟩
  rw [State.memRead_afterStore_self (htN.trans hN)]
  exact eq_mul_mod_of_montgomery (hs.coprime_R hk) htN hamod hbmod humod htmod

/-- Settles O18: 0 is below N, and a t below N with t·R ≡ 0 (mod N) is 0. -/
theorem zeroOperandsGiveZero : Obligations.ZeroOperandsGiveZero := by
  intro s len k dst src1 src2 hs hk h1 h2 hd hx hy i hi
  have hpos := hs.modulus_pos hk
  have hzero {t : Nat} (ht : t < s.modulus k) (h : t * 2 ^ (64 * len) ≡ 0 [MOD s.modulus k]) : t = 0 :=
    eq_of_mul_modEq_mul (hs.coprime_R hk) ht hpos (by rwa [Nat.zero_mul])
  have hxN : s.memRead src1 (8 * len) < s.modulus k := hx.symm ▸ hpos
  have hyN : s.memRead src2 (8 * len) < s.modulus k := hy.symm ▸ hpos
  simp only [List.mem_cons, List.not_mem_nil, or_false] at hi
  rcases hi with rfl | rfl | rfl | rfl | rfl
  · obtain ⟨hadd, -⟩ := addmodAndSubmodComputeModN s len k dst src1 src2 hs hk h1 h2 hd hxN hyN
    simpa [hx, hy] using hadd
  · obtain ⟨-, hsub, -⟩ := addmodAndSubmodComputeModN s len k dst src1 src2 hs hk h1 h2 hd hxN hyN
    simpa [hx, hy] using hsub
  · obtain ⟨t, ht, hmod, hmul⟩ := exec_mulmont hs hk h1 h2 hd hxN hyN
    rw [hx, Nat.zero_mul] at hmod
    rwa [hzero ht hmod] at hmul
  · have hto := exec_tomont hs hk h1 hd
    rwa [hx, Nat.zero_mul, Nat.zero_mod] at hto
  · obtain ⟨t, ht, hmod, hnorm⟩ := exec_tonorm hs hk h1 hd
    rw [hx] at hmod
    rwa [hzero ht hmod] at hnorm

/-! ### MODINV is unique (R252), and SETMODI asks for it (R262) -/

/-- One word v makes n0·v + 1 a multiple of 2^64 when n0 is odd. -/
theorem mul_add_one_mod_eq_zero_iff {n0 v : Word} (hodd : n0.toNat % 2 = 1) :
    (n0.toNat * v.toNat + 1) % 2 ^ 64 = 0 ↔ v = modInv n0 := by
  have hmodEq {u : Word} (h : (n0.toNat * u.toNat + 1) % 2 ^ 64 = 0) : 1 + u.toNat * n0.toNat ≡ 0 [MOD 2 ^ 64] := by
    rw [Nat.ModEq, Nat.zero_mod, Nat.add_comm, Nat.mul_comm]
    exact h
  have hright := modInv_toNat hodd
  constructor
  · intro h
    exact BitVec.eq_of_toNat_eq (reductionFactor_unique (coprime_two_pow_of_mul_add_one h 64) (modInv n0).isLt v.isLt
      (hmodEq hright) (hmodEq h))
  · rintro rfl
    exact hright

/-- Settles O42: `modInv` is right, and no other word is. -/
theorem modInvIsTheUniqueConstant : Obligations.ModInvIsTheUniqueConstant :=
  fun _ hodd => ⟨modInv_toNat hodd, fun _ => (mul_add_one_mod_eq_zero_iff hodd).1⟩

section
variable {s : State} {len src1 : Nat}

/-- SETMODI's check of the host's constant, on the values of the two buffers. -/
theorem State.hostConstant_eq_modInv_iff (hodd : s.memRead src1 (8 * len) % 2 = 1) :
    BitVec.ofNat 64 (s.memRead (src1 + 8 * len) 8) = modInv ((s.loadOperand src1 len).headD 0) ↔
      (s.memRead src1 (8 * len) * s.memRead (src1 + 8 * len) 8 + 1) % 2 ^ 64 = 0 := by
  have hlimb : s.memRead src1 (8 * len) % 2 ^ 64 = ((s.loadOperand src1 len).headD 0).toNat := by
    rw [← valOf_mod_limb, State.valOf_loadOperand]
  rw [← mul_add_one_mod_eq_zero_iff (by omega), s.toNat_memRead _ (le_refl 8), ← hlimb, ← Nat.mod_add_mod, Nat.mod_mul_mod,
    Nat.mod_add_mod]

/-- SETMODI on a modulus that passes R255: it makes SETMOD's context of the right constant and refuses any other. -/
theorem exec_setmodi (k : Slot) (hmin : 1 ≤ len) (hmax : len ≤ 12) (hrange : src1 + 8 * len + 8 ≤ 4096)
    (hok : modulusOk (s.loadOperand src1 len) = true) :
    exec (.setmodi len k src1) s = .next
      (if BitVec.ofNat 64 (s.memRead (src1 + 8 * len) 8) = modInv ((s.loadOperand src1 len).headD 0) then
        (s.setSlot k (s.bufferContext len src1)).succeed
       else (s.clearSlot k).raise .invalidModulus) := by
  have hcount : limbCountOk len = true := limbCountOk_iff.2 ⟨hmin, hmax⟩
  have hbounds : inBounds src1 (8 * len + 8) = true := inBounds_iff.2 hrange
  simp only [exec, execSetmodi, setmodiBody, checkLimbCount, checkRange, hcount, hbounds, hok, require, if_true,
    decide_eq_true_eq]
  split
  case isTrue h => rw [finish_ok, h]; rfl
  case isFalse => rfl

end

/-- Settles O14: the check of the constant says what R262 says, and past it SETMODI does what SETMOD does. -/
theorem setmodiAcceptsOnlyTheRightConstant : Obligations.SetmodiAcceptsOnlyTheRightConstant := by
  intro s len k src1 hmin hmax hrange hodd htop
  have hok := (s.modulusOk_loadOperand_iff src1 hmin).2 ⟨hodd, htop⟩
  have hexec := exec_setmodi k hmin hmax hrange hok
  have hconst := State.hostConstant_eq_modInv_iff hodd
  refine ⟨fun hright => ?_, fun hwrong => ?_⟩
  · have hinv : (s.bufferContext len src1).modInv.toNat = s.memRead (src1 + 8 * len) 8 := by
      rw [← s.toNat_memRead _ (le_refl 8), hconst.2 hright]
      rfl
    rw [if_pos (hconst.2 hright)] at hexec
    exact ⟨s.bufferContext len src1, State.bufferContext_valid, State.bufferContext_len hmax,
      State.bufferContext_modulus hmax, hinv, State.bufferContext_sound hmin hmax hok, hexec,
      exec_setmod_ok k hmin hmax (by omega) hok⟩
  · rw [if_neg (hconst.not.2 hwrong)] at hexec
    exact hexec

/-! ### CLRCTX (R269, R270) -/

theorem exec_clrctx (k : Slot) (s : State) : exec (.clrctx k) s = .next (s.clearSlot k).succeed := rfl

/-- Settles O15: the slots under `clearSlot`. -/
theorem clrctxEmptiesItsSlot : Obligations.ClrctxEmptiesItsSlot :=
  fun s k => ⟨_, exec_clrctx k s, rfl, s.slot_clearSlot_self k, fun _ hj => s.slot_clearSlot_other hj.symm⟩

theorem not_legal_clrctx_iff {w : Word} (hopc : fieldOpc w = Opcode.clrctx.code) :
    ¬ Opcode.clrctx.Legal w ↔ fieldLen w ≠ 0 ∨ fieldDst w ≠ 0 ∨ fieldSrc1 w ≠ 0 ∨ fieldSrc2 w ≠ 0 ∨
      fieldRsvd0 w ≠ 0 ∨ fieldRsvd1 w ≠ 0 := by
  simp only [not_legal_iff hopc, Opcode.usesLen, Opcode.usesCtx, Opcode.usesDst, Opcode.usesSrc1, Opcode.usesSrc2]
  tauto

/-- Settles O26: a word that does not meet the row is no command, and every other one empties its slot. -/
theorem clrctxFailsOnlyInDecode : Obligations.ClrctxFailsOnlyInDecode := by
  intro s w rest hw hopc
  by_cases hlegal : Opcode.clrctx.Legal w
  · have hstep := (step_of_decode_ok hw (decode_of_legal hlegal)).trans (exec_clrctx (fieldCtx w) _)
    refine ⟨_, hstep, rfl, rfl, ?_⟩
    rw [if_neg ((not_legal_clrctx_iff hopc).not_right.1 hlegal)]
    refine ⟨rfl, ?_⟩
    rw [State.statusWord_valid, State.slot_succeed, State.slot_clearSlot_self]
    rfl
  · refine ⟨_, step_of_not_legal (o := .clrctx) hw hopc hlegal, rfl, rfl, ?_⟩
    rw [if_pos ((not_legal_clrctx_iff hopc).1 hlegal)]
    exact ⟨rfl, rfl⟩

/-! ### The errors of TOMONT and TONORM in their order (R278, R285) -/

theorem not_legal_conversion_iff {w : Word} {o : Opcode} (hopc : fieldOpc w = o.code) (ho : o = .tomont ∨ o = .tonorm) :
    ¬ o.Legal w ↔ fieldRsvd0 w ≠ 0 ∨ fieldRsvd1 w ≠ 0 ∨ fieldSrc2 w ≠ 0 := by
  rcases ho with rfl | rfl <;>
    simp [not_legal_iff hopc, Opcode.usesLen, Opcode.usesCtx, Opcode.usesDst, Opcode.usesSrc1, Opcode.usesSrc2]

/-- ERR after the write of a word of TOMONT or TONORM, whose `core` answers on the context of a slot. -/
theorem step_err_of_conversion {core : Limbs → Context → Except ErrCode Limbs} {s : State} {w : Word}
    {rest : List HostEvent} {o : Opcode} (hw : s.writesCmd w rest) (hopc : fieldOpc w = o.code)
    (ho : o = .tomont ∨ o = .tonorm)
    (hexec : ∀ t, exec (buildInstr o w) t = finish t (unaryBody core (fieldLen w) (fieldCtx w) (fieldDst w) (fieldSrc1 w) t))
    (hcore : (s.acceptCmd w rest).contextReady (fieldCtx w) (fieldLen w) →
      ∃ z, core ((s.acceptCmd w rest).loadOperand (fieldSrc1 w) (fieldLen w)) (s.slot (fieldCtx w)) = .ok z) :
    ∃ t, step s = .next t ∧ t.err =
      if fieldRsvd0 w ≠ 0 ∨ fieldRsvd1 w ≠ 0 ∨ fieldSrc2 w ≠ 0 then 1
      else if (s.slot (fieldCtx w)).valid = false then 2
      else if fieldLen w ≠ (s.slot (fieldCtx w)).len.toNat then 3
      else if 4096 < fieldSrc1 w + 8 * fieldLen w ∨ 4096 < fieldDst w + 8 * fieldLen w then 4
      else 0 := by
  obtain ⟨t, ht, herr⟩ := step_err_of_opc hw hopc (not_legal_conversion_iff hopc ho) (hexec _)
  rw [bodyCode_unaryBody hcore] at herr
  exact ⟨t, ht, herr⟩

/-- Settles O22: both commands run one body, whose code is that of its first check to fail; past the checks the CIOS unit
answers for every x. -/
theorem conversionErrorsInOrder : Obligations.ConversionErrorsInOrder := by
  intro s w rest hs hw hopc
  have haccept := hs.acceptCmd w rest
  rcases hopc with hto | hno
  · exact step_err_of_conversion (o := .tomont) hw hto (.inl rfl) (fun _ => rfl) haccept.tomont_answers
  · exact step_err_of_conversion (o := .tonorm) hw hno (.inr rfl) (fun _ => rfl) haccept.tonorm_answers

/-! ### The errors of SETMOD and SETMODI in their order, and the slot they leave (R255, R256, R264) -/

theorem not_legal_setContext_iff {w : Word} {o : Opcode} (hopc : fieldOpc w = o.code) (ho : o = .setmod ∨ o = .setmodi) :
    ¬ o.Legal w ↔ fieldRsvd0 w ≠ 0 ∨ fieldRsvd1 w ≠ 0 ∨ fieldDst w ≠ 0 ∨ fieldSrc2 w ≠ 0 := by
  rcases ho with rfl | rfl <;>
    simp [not_legal_iff hopc, Opcode.usesLen, Opcode.usesCtx, Opcode.usesDst, Opcode.usesSrc1, Opcode.usesSrc2]

@[simp] theorem State.memRead_acceptCmd (s : State) (w : Word) (rest : List HostEvent) (off n : Nat) :
    (s.acceptCmd w rest).memRead off n = s.memRead off n :=
  State.memRead_congr fun _ _ _ => rfl

/-- The code of SETMOD's body on the value of the modulus. -/
theorem bodyCode_setmodBody_memRead (len : Nat) (k : Slot) (src1 : Nat) (s : State) :
    bodyCode (setmodBody len k src1 s) =
      if len < 1 ∨ 12 < len then 5
      else if 4096 < src1 + 8 * len then 4
      else if s.memRead src1 (8 * len) % 2 = 0 ∨ s.memRead src1 (8 * len) < 2 ^ (64 * (len - 1)) then 5
      else 0 := by
  rw [bodyCode_setmodBody]
  refine ite_congr rfl (fun _ => rfl) fun hlen => ite_congr rfl (fun _ => rfl) fun _ => ?_
  rw [← ite_not]
  exact if_congr (by rw [s.modulusOk_loadOperand_iff src1 (by omega)]; omega) rfl rfl

/-- The code of SETMODI's body on the values of the modulus and of the host's constant. -/
theorem bodyCode_setmodiBody_memRead (len : Nat) (k : Slot) (src1 : Nat) (s : State) :
    bodyCode (setmodiBody len k src1 s) =
      if len < 1 ∨ 12 < len then 5
      else if 4096 < src1 + 8 * len + 8 then 4
      else if s.memRead src1 (8 * len) % 2 = 0 ∨ s.memRead src1 (8 * len) < 2 ^ (64 * (len - 1)) then 5
      else if (s.memRead src1 (8 * len) * s.memRead (src1 + 8 * len) 8 + 1) % 2 ^ 64 ≠ 0 then 5
      else 0 := by
  rw [bodyCode_setmodiBody]
  refine ite_congr rfl (fun _ => rfl) fun hlen => ite_congr rfl (fun _ => rfl) fun _ => ?_
  rw [← ite_not]
  refine ite_congr (propext ?_) (fun _ => rfl) fun hmod => ?_
  · rw [s.modulusOk_loadOperand_iff src1 (by omega)]
    omega
  · rw [ite_not, if_congr (State.hostConstant_eq_modInv_iff (by omega)) rfl rfl]

/-- What the write of a word of SETMOD or SETMODI leaves in ERR and in the slots. The body's error is taken with the slot
cleared, and has another code than a word that does not meet its row, which leaves the slot as it was (R256). -/
theorem step_of_setContext {s : State} {w : Word} {rest : List HostEvent} {o : Opcode} {illegal : Prop}
    [Decidable illegal] {body : Except ErrCode State} {code : BitVec 4} (hw : s.writesCmd w rest)
    (hopc : fieldOpc w = o.code) (hillegal : ¬ o.Legal w ↔ illegal)
    (hexec : exec (buildInstr o w) (s.acceptCmd w rest) = finish ((s.acceptCmd w rest).clearSlot (fieldCtx w)) body)
    (hwritten : (buildInstr o w).writtenSlot = some (fieldCtx w)) (hbody : bodyCode body ≠ 1)
    (hcode : code = if illegal then 1 else bodyCode body) :
    ∃ t, step s = .next t ∧ t.err = code ∧ (code = 1 → t.slot (fieldCtx w) = s.slot (fieldCtx w)) ∧
      (code ≠ 0 → code ≠ 1 → t.slot (fieldCtx w) = Context.empty) ∧
      ∀ j : Slot, j ≠ fieldCtx w → t.slot j = s.slot j := by
  subst hcode
  by_cases hi : illegal
  · rw [if_pos hi]
    exact ⟨_, step_of_not_legal hw hopc (hillegal.2 hi), rfl, fun _ => rfl, fun _ h => absurd rfl h, fun _ _ => rfl⟩
  · have hlegal : o.Legal w := not_not.1 (hillegal.not.2 hi)
    rw [if_neg hi, step_of_decode_ok hw (decode_of_legal hlegal)]
    have hother {t : State} (ht : exec (buildInstr o w) (s.acceptCmd w rest) = .next t) (j : Slot)
        (hj : j ≠ fieldCtx w) : t.slot j = (s.acceptCmd w rest).slot j :=
      exec_slot ht fun h => hj (Option.some.inj (h.symm.trans hwritten))
    cases body with
    | ok u => exact ⟨_, hexec, rfl, fun h => absurd h hbody, fun h => absurd rfl h, hother hexec⟩
    | error c => exact ⟨_, hexec, rfl, fun h => absurd h hbody, fun _ _ => State.slot_clearSlot_self _ _, hother hexec⟩

/-- Settles O23: the code of SETMOD's body in the order of its checks, and the slot by `step_of_setContext`. -/
theorem setmodErrorsInOrder : Obligations.SetmodErrorsInOrder := by
  intro s w rest hw hopc k n code
  have hbody := bodyCode_setmodBody_memRead (fieldLen w) k (fieldSrc1 w) (s.acceptCmd w rest)
  rw [State.memRead_acceptCmd] at hbody
  refine step_of_setContext (o := .setmod) hw hopc (not_legal_setContext_iff hopc (.inl rfl)) rfl rfl ?_ ?_
  · rw [hbody]
    split_ifs <;> decide
  · rw [hbody]

/-- Settles O24: the code of SETMODI's body in the order of its checks, and the slot by `step_of_setContext`. -/
theorem setmodiErrorsInOrder : Obligations.SetmodiErrorsInOrder := by
  intro s w rest hw hopc k n hinv code
  have hbody := bodyCode_setmodiBody_memRead (fieldLen w) k (fieldSrc1 w) (s.acceptCmd w rest)
  rw [State.memRead_acceptCmd, State.memRead_acceptCmd] at hbody
  refine step_of_setContext (o := .setmodi) hw hopc (not_legal_setContext_iff hopc (.inr rfl)) rfl rfl ?_ ?_
  · rw [hbody]
    split_ifs <;> decide
  · rw [hbody]

end Sys2Proof.Machine

/-! PROOFS for 60_exceptions.md. What an error does (R302), the idle block (R317), and that every event is served (R360,
R363). -/

namespace Sys2Proof.Machine

/-! ### A failing command -/

theorem failedState_slot_of_setsContext {i : Instr} {k : Slot} (s : State) (h : i.setsContext = some k) :
    (failedState i s).slot k = Context.empty := by
  rw [failedState, h]
  exact s.slot_clearSlot_self k

/-- Taking an error clears no slot but that of a SETMOD or SETMODI (R302 point 5). -/
theorem failedState_slot_of_setsContext_ne {i : Instr} {k : Slot} (s : State) (h : i.setsContext ≠ some k) :
    (failedState i s).slot k = s.slot k := by
  unfold failedState
  split
  · next j hj => exact s.slot_clearSlot_other fun e => h (e ▸ hj)
  · rfl

/-- A command that ends with a code other than 0 has taken an error, and done nothing else (R302). -/
theorem exec_failed {i : Instr} {s t : State} (h : exec i s = .next t) (he : t.err ≠ 0) :
    ∃ c : ErrCode, c ≠ .ok ∧ t = (failedState i s).raise c := by
  rcases exec_cases h with hfail | ⟨dst, len, a, -, -, rfl⟩ | ⟨k, c, -, -, -, rfl⟩ | ⟨len, a, b, -, rfl⟩
  · exact hfail
  · exact absurd rfl he
  · exact absurd rfl he
  · exact absurd rfl he

/-- Settles O27: a word that decodes takes its error in `failedState`, any other word in the state that accepted
the write. -/
theorem failedCommandChangesNothingElse : Obligations.FailedCommandChangesNothingElse := by
  intro s t w rest hw hstep he
  obtain ⟨u, hu, hlast, hpend, hresp⟩ := step_writesCmd_host_fields hw
  obtain rfl : u = t := Host.Outcome.next.inj (hu.symm.trans hstep)
  cases hd : decode w with
  | ok i =>
    obtain ⟨c, hc, rfl⟩ := exec_failed ((step_of_decode_ok hw hd).symm.trans hstep) he
    have hram : ((failedState i (s.acceptCmd w rest)).raise c).ram = s.ram := failedState_ram i _
    have hdraw : ((failedState i (s.acceptCmd w rest)).raise c).ramDraw = s.ramDraw := failedState_ramDraw i _
    refine ⟨⟨c, hc, rfl⟩, rfl, hram, hdraw, State.byteAt_congr hram hdraw, failedState_gte i _, ?_, ?_, hlast,
      hpend, hresp⟩
    · rintro k _ ⟨⟩ hk
      exact failedState_slot_of_setsContext _ hk
    · exact fun k hk => failedState_slot_of_setsContext_ne (s.acceptCmd w rest) (hk i rfl)
  | error e =>
    obtain rfl := Host.Outcome.next.inj ((step_of_decode_error hw hd).symm.trans hstep)
    exact ⟨⟨.illegalCmd, by decide, rfl⟩, rfl, rfl, rfl, fun _ => rfl, rfl, fun _ _ h => (nomatch h), fun _ _ => rfl,
      hlast, hpend, hresp⟩

/-! ### The events -/

theorem step_idle {s : State} (h : s.pending = []) : step s = .next s := by
  rw [step, h]

/-- Settles O55: of no event a step makes nothing. -/
theorem idleStepChangesNothing : Obligations.IdleStepChangesNothing := fun _ => step_idle

@[simp] theorem State.writeTarget_pending (s : State) (size : AccessSize) (w : Word) (t : Target) :
    (s.writeTarget size w t).pending = s.pending := by rw [State.writeTarget_eq]

/-- A request leaves the list and gets one response, whatever it asks for (R95). -/
theorem step_request_served {s : State} {r : Request} {rest : List HostEvent} (h : s.pending = .request r :: rest) :
    ∃ t answer, step s = .next t ∧ t.pending = rest ∧ t.responses = s.responses ++ [answer] := by
  obtain ⟨t, ht⟩ := step_answers s
  have hrest {r' : Request} {rest' : List HostEvent} (h' : s.pending = .request r' :: rest') : rest' = rest :=
    (List.cons.inj (h'.symm.trans h)).2
  cases stepCase_of_step ht with
  | idle h' => exact nomatch h'.symm.trans h
  | reset h' => exact nomatch h'.symm.trans h
  | command hw _ hexec =>
    obtain ⟨-, hpend, hresp, -⟩ := exec_host_fields hexec
    exact ⟨t, _, ht, hpend.trans (hrest hw), hresp⟩
  | illegal hw => exact ⟨_, _, ht, hrest hw, rfl⟩
  | answer resp d h' => exact ⟨_, _, ht, hrest h', rfl⟩
  | write h' => exact ⟨_, { resp := .okay, rdata := 0 }, ht, by simpa using hrest h', by simp⟩

/-- The first of some steps can be taken by itself. -/
theorem run_succ_of_step (M : Host.Core) {s t : M.State} (h : M.step s = .next t) (n : Nat) :
    M.run (n + 1) s = M.run n t := by
  rw [Host.Core.run, h]

/-- Settles O56, by induction on the events: a reset pulse leaves the responses alone and a request adds one. That each
request is answered rests on log 5: no reset falls inside a transaction. -/
theorem everyEventIsServed : Obligations.EveryEventIsServed := by
  intro s
  induction hp : s.pending generalizing s with
  | nil => exact ⟨s, rfl, hp, rfl⟩
  | cons e rest ih =>
    rw [List.length_cons]
    cases e with
    | reset =>
      rw [run_succ_of_step core (step_reset hp)]
      exact ih _ rfl
    | request r =>
      obtain ⟨t, answer, hstep, hpend, hresp⟩ := step_request_served hp
      obtain ⟨u, hrun, hdone, hcount⟩ := ih t hpend
      refine ⟨u, (run_succ_of_step core hstep _).trans hrun, hdone, ?_⟩
      rw [hcount, hresp, List.filter_cons_of_pos (by simp), List.length_append, List.length_singleton, List.length_cons]
      omega

end Sys2Proof.Machine

/-! PROOFS for 70_reset_and_hazards.md. STATUS read right after a command (R351), and what the outcome of a run shows
(R363). -/

namespace Sys2Proof.Machine

/-- Settles O53: the command leaves the read as the next event, and the read answers STATUS and changes nothing. -/
theorem statusReadGivesTheLastCode : Obligations.StatusReadGivesTheLastCode := by
  intro s w rest h
  obtain ⟨t, ht, -, hpend, hresp⟩ := step_writesCmd_host_fields h
  refine ⟨t, _, t.statusWord, ht, step_read64 hpend targetOf_status rfl (by simp), ?_, t.statusWord_err, rfl⟩
  rw [hresp, List.append_assoc]
  rfl

/-- Two states have the same slots exactly when each slot is the same. -/
theorem State.ctx_eq_iff {s t : State} : s.ctx = t.ctx ↔ ∀ k : Slot, s.slot k = t.slot k :=
  ⟨fun h => State.slot_congr h, fun h => Vector.ext fun k hk => h ⟨k, hk⟩⟩

theorem State.statusWord_gte (s : State) : s.statusWord.getLsbD 4 = s.gte := s.statusWord_getLsbD 4

theorem State.statusWord_sticky (s : State) : s.statusWord.getLsbD 8 = s.sticky := s.statusWord_getLsbD 8

/-- States with the same slots show the same STATUS exactly when ERR, GTE and STICKY are the same (R41). -/
theorem State.statusWord_eq_iff {s t : State} (hslots : ∀ k : Slot, s.slot k = t.slot k) :
    s.statusWord = t.statusWord ↔ s.err = t.err ∧ s.gte = t.gte ∧ s.sticky = t.sticky := by
  constructor
  · intro h
    refine ⟨?_, ?_, ?_⟩
    · rw [← s.statusWord_err, h, t.statusWord_err]
    · rw [← s.statusWord_gte, h, t.statusWord_gte]
    · rw [← s.statusWord_sticky, h, t.statusWord_sticky]
  · rintro ⟨herr, hgte, hsticky⟩
    simp only [State.statusWord, State.ctxv, hslots, herr, hgte, hsticky]

/-- Settles O57: the outcome's parts one by one; STATUS adds ERR, GTE and STICKY to what the slots show. -/
theorem observationShowsTheWholeFinalState : Obligations.ObservationShowsTheWholeFinalState := by
  intro s t
  have hparts : s.observe = t.observe ↔ s.responses = t.responses ∧ s.ramBytes = t.ramBytes ∧ s.ctx = t.ctx ∧
      s.statusWord = t.statusWord ∧ s.lastCmd = t.lastCmd := by
    simp only [State.observe, Observation.mk.injEq]
  rw [hparts, State.ramBytes_eq_iff, State.ctx_eq_iff]
  refine and_congr_right fun _ => and_congr_right fun _ => and_congr_right fun hslots => ?_
  rw [State.statusWord_eq_iff hslots, and_assoc, and_assoc]

end Sys2Proof.Machine
